-- ==== Sys2Proof/Word.lean ====
section
/-!
DEFINITION. The word types of the gdump Spectral Analysis Block (SAB): the byte of the aperture, the 32-bit
bus word and the 64-bit binary64 register (00_scope.md R8, 20_memory.md R61, 10_state.md R46).
-/
namespace Sys2Proof

/-- One byte of the aperture (20_memory.md R66). -/
abbrev Byte := BitVec 8

/-- One 32-bit bus word, register or command (20_memory.md R61, 30_encoding.md R80). -/
abbrev Word := BitVec 32

/-- The 64 bits of a binary64 register or `SPEC` element (10_state.md R46, 30_encoding.md R87). -/
abbrev DWord := BitVec 64

end Sys2Proof
end

