-- ==== Sys2Proof/Syntax.lean ====
section
/-!
DEFINITION. What the outside world can say to the SAB: the six commands, the registers by name, the host's
accesses, and the events that arrive at the block (30_encoding.md R82, R89; 20_memory.md R64; 60_exceptions.md R200).
-/
namespace Sys2Proof

/-- The commands of the opcode map, one constructor per row (30_encoding.md R82). A command has no operand
fields: every operand is a register (30_encoding.md R80). -/
inductive Instr where
  | nop
  | clear
  | framePush
  | reorder
  | unpack
  | analyze
  deriving DecidableEq, Repr

/-- Every command, in the opcode map's order. -/
def Instr.all : List Instr := [.nop, .clear, .framePush, .reorder, .unpack, .analyze]

/-- The 32-bit registers and half-registers of the address map, in its order (20_memory.md R64). -/
inductive RegName where
  | id | cmd | status | base | endAddr | len | layout | nsamp | sampleWidth
  | lineAddr | lineW0 | lineW1 | lineW2 | lineW3
  | fsLo | fsHi | cfLo | cfHi | bwLo | bwHi | thLo | thHi
  | sigLo | sigHi | dcLo | dcHi | toneLo | toneHi
  | nband | ntone | nspec
  deriving DecidableEq, Repr

/-- How wide a host access is. The bus has only 32-bit accesses (20_memory.md R61); the others are named so
that the model can refuse them (20_memory.md R67). -/
inductive AccessSize where
  | bits8
  | bits16
  | bits32
  | bits64
  deriving DecidableEq, Repr

/-- One host access: `MemRead` or `MemWrite` of 00_scope.md R11, with a 32-bit address as the platform
routes it (20_memory.md R60; log 11). -/
inductive Access where
  | read (addr : Word) (size : AccessSize)
  | write (addr : Word) (size : AccessSize) (value : Word)
  deriving DecidableEq, Repr

/-- What can happen to the SAB between two of its steps (60_exceptions.md R200; log 2). -/
inductive Input where
  /-- the host's next access -/
  | access (a : Access)
  /-- the sequencer takes its turn -/
  | turn
  /-- the platform asserts reset (70_reset_and_hazards.md R211) -/
  | reset
  /-- a second bus master touches the SAB (20_memory.md R70) -/
  | otherMaster
  deriving DecidableEq, Repr

/-- One readback line "AAAA-BBBB: w0 w1 w2 w3" as binary values (30_encoding.md R86). -/
structure Line where
  addr : Word
  w0 : Word
  w1 : Word
  w2 : Word
  w3 : Word
  deriving DecidableEq, Repr

end Sys2Proof
end

