-- ==== Sys2Proof/WellFormed.lean ====
section
/-!
DEFINITION. Which commands and host accesses are well formed (30_encoding.md R80, R84; 20_memory.md R61).
-/
namespace Sys2Proof

/-- A command has no fields, so every command is well formed (30_encoding.md R80). -/
def Instr.wf : Instr → Bool
  | .nop => true
  | .clear => true
  | .framePush => true
  | .reorder => true
  | .unpack => true
  | .analyze => true

/-- Is the address a multiple of 4 (20_memory.md R61)? -/
def alignedAddr (addr : Word) : Bool := addr.toNat % 4 == 0

/-- "Every host access is a 32-bit access to a 4-byte-aligned address" (20_memory.md R61). -/
def Access.wf : Access → Bool
  | .read addr size => size == .bits32 && alignedAddr addr
  | .write addr size _ => size == .bits32 && alignedAddr addr

/-- An input a well-formed host and platform can present (60_exceptions.md R201, last sentence). -/
def Input.wf : Input → Bool
  | .access a => a.wf
  | .turn => true
  | .reset => true
  | .otherMaster => false

end Sys2Proof
end

