-- ==== Sys2Proof/Decode.lean ====
section
/-!
DEFINITION. Decoding of a command word, total on all 2^32 words and rejecting by name, and the encoder beside it
(30_encoding.md R80 to R84).
-/
namespace Sys2Proof

/-- Why a command word is none of the six commands; the SAB answers each with `BAD_CMD` (30_encoding.md R83). -/
inductive DecodeError where
  /-- bits 31:8 (`RSV`) are not 0 -/
  | reservedBits
  /-- the opcode is one of `0x06 .. 0xFF` -/
  | reservedOpcode (op : Byte)
  deriving DecidableEq, Repr

/-- The field `OP`, bits 7:0 (30_encoding.md R80). -/
def opField (c : Word) : Byte := c.extractLsb' 0 8

/-- The field `RSV`, bits 31:8 (30_encoding.md R80). -/
def rsvField (c : Word) : BitVec 24 := c.extractLsb' 8 24

/-- The command a byte names in the opcode map, if any (30_encoding.md R82). -/
def instrOfOpcode (op : Byte) : Option Instr :=
  match op.toNat with
  | 0 => some .nop
  | 1 => some .clear
  | 2 => some .framePush
  | 3 => some .reorder
  | 4 => some .unpack
  | 5 => some .analyze
  | _ => none

/-- Decoding of an accepted command word (30_encoding.md R81): reserved bits first, then the opcode. -/
def decode (c : Word) : Except DecodeError Instr :=
  if rsvField c = 0#24 then
    match instrOfOpcode (opField c) with
    | some i => .ok i
    | none => .error (.reservedOpcode (opField c))
  else .error .reservedBits

/-- The opcode of a command (30_encoding.md R82). -/
def opcode : Instr → Byte
  | .nop => 0x00#8
  | .clear => 0x01#8
  | .framePush => 0x02#8
  | .reorder => 0x03#8
  | .unpack => 0x04#8
  | .analyze => 0x05#8

/-- The command word of a command: `RSV = 0` above its opcode (30_encoding.md R80, R82). -/
def encode (i : Instr) : Word := 0#24 ++ opcode i

/-- The command word in the low `nbits` bits of `w`, every bit above them 0 (30_encoding.md R84: a command is
exactly one 32-bit word). -/
def tableWord (nbits w : Nat) : Word := BitVec.ofNat 32 (w % 2 ^ nbits)

/-- The instruction the decoder reads from an opcode-table word. No command is longer than 32 bits
(30_encoding.md R84). -/
def decodeTableWord (nbits w : Nat) : Option Instr :=
  if nbits ≤ 32 then (decode (tableWord nbits w)).toOption else none

/-- `0x0000_0000` is `NOP` (30_encoding.md R82). -/
theorem decode_word_nop : decode 0x00000000#32 = .ok .nop := rfl

/-- `0x0000_0001` is `CLEAR` (30_encoding.md R82). -/
theorem decode_word_clear : decode 0x00000001#32 = .ok .clear := rfl

/-- `0x0000_0002` is `FRAME_PUSH` (30_encoding.md R82). -/
theorem decode_word_framePush : decode 0x00000002#32 = .ok .framePush := rfl

/-- `0x0000_0003` is `REORDER` (30_encoding.md R82). -/
theorem decode_word_reorder : decode 0x00000003#32 = .ok .reorder := rfl

/-- `0x0000_0004` is `UNPACK` (30_encoding.md R82). -/
theorem decode_word_unpack : decode 0x00000004#32 = .ok .unpack := rfl

/-- `0x0000_0005` is `ANALYZE` (30_encoding.md R82). -/
theorem decode_word_analyze : decode 0x00000005#32 = .ok .analyze := rfl

end Sys2Proof
end

