-- ==== Sys2Proof/Machine/Reference.lean ====
section
/-!
DEFINITION. The reference result of `ANALYZE`: the binary64 operand values, the exact (rational) band rules, and the
real-valued spectrum, mean, threshold, tones and logarithms of 42_analyze.md R150 to R169. The rational parts are
computed by the machine; the real parts say what the parameter `NUMERICS` must stay close to (42_analyze.md R172).
-/
namespace Sys2Proof.Machine

/-! ## binary64 operands (30_encoding.md R87) -/

/-- The sign bit, bit 63. -/
def binary64Sign (b : DWord) : Bool := b.getLsbD 63

/-- The biased exponent, bits 62:52. -/
def binary64Exponent (b : DWord) : Nat := (b.extractLsb' 52 11).toNat

/-- The fraction, bits 51:0. -/
def binary64Fraction (b : DWord) : Nat := (b.extractLsb' 0 52).toNat

/-- The magnitude of a finite encoding: subnormal with exponent 0, otherwise with the hidden bit. -/
def binary64Magnitude (exponent fraction : Nat) : Rat :=
  if exponent = 0 then (fraction : Rat) / (2 ^ 1074 : Nat)
  else if 1075 ≤ exponent then (((2 ^ 52 + fraction) * 2 ^ (exponent - 1075) : Nat) : Rat)
  else ((2 ^ 52 + fraction : Nat) : Rat) / (2 ^ (1075 - exponent) : Nat)

/-- The exact rational value a binary64 encoding denotes (00_scope.md R12, 30_encoding.md R87); none for an
infinity or a NaN, whose exponent field is 0x7FF. -/
def binary64Value (b : DWord) : Option Rat :=
  if binary64Exponent b = 0x7FF then none
  else
    let magnitude := binary64Magnitude (binary64Exponent b) (binary64Fraction b)
    some (if binary64Sign b then -magnitude else magnitude)

/-! ## The analyzer's input and its exact parts -/

/-- What `NUMERICS` is a function of: the samples `x[0 .. N-1]`, each (real part I, imaginary part Q), and the
exact values of `FS`, `CF`, `BW` and `TH` (42_analyze.md R159, R172). -/
structure AnalyzeInput where
  samples : List (Rat × Rat)
  fs : Rat
  cf : Rat
  bw : Rat
  th : Rat
  deriving DecidableEq, Repr

/-- The FFT length `N`, the number of samples (42_analyze.md R156, R157). -/
def AnalyzeInput.length (inp : AnalyzeInput) : Nat := inp.samples.length

/-- The shifted index of DC, `h = floor(N/2)` (42_analyze.md R161). -/
def AnalyzeInput.dcIndex (inp : AnalyzeInput) : Nat := inp.length / 2

/-- The frequency of shifted bin `k` in MHz, `f[k] = (k - h)·FS/N` (42_analyze.md R161). -/
def AnalyzeInput.frequency (inp : AnalyzeInput) (k : Nat) : Rat :=
  ((k : Rat) - (inp.dcIndex : Rat)) * inp.fs / (inp.length : Rat)

/-- The centre of the in-band window in MHz, `c = CF·FS/2` (42_analyze.md R163). -/
def AnalyzeInput.centre (inp : AnalyzeInput) : Rat := inp.cf * inp.fs / 2

/-- Shifted bin `k` is in band iff `c - BW/2 <= f[k] <= c + BW/2`, exactly (42_analyze.md R163). -/
def AnalyzeInput.inBand (inp : AnalyzeInput) (k : Nat) : Bool :=
  decide (inp.centre - inp.bw / 2 ≤ inp.frequency k) && decide (inp.frequency k ≤ inp.centre + inp.bw / 2)

/-- The set `B` of in-band bins, in rising order (42_analyze.md R163). -/
def AnalyzeInput.band (inp : AnalyzeInput) : List Nat := (List.range inp.length).filter inp.inBand

/-- The unshifted index that shifted bin `k` holds, `(k - h) mod N` (42_analyze.md R161). -/
def AnalyzeInput.unshifted (inp : AnalyzeInput) (k : Nat) : Nat :=
  (((k : Int) - (inp.dcIndex : Int)) % (inp.length : Int)).toNat

/-! ## The real-valued reference -/

/-- Sample `n` as a complex number, I the real part and Q the imaginary part (42_analyze.md R159). -/
noncomputable def AnalyzeInput.sample (inp : AnalyzeInput) (n : Nat) : ℂ :=
  let x := inp.samples.getD n (0, 0)
  ⟨(x.1 : ℝ), (x.2 : ℝ)⟩

/-- `X[m] = Σ_{n=0}^{N-1} x[n]·exp(-2πj·m·n/N)` (42_analyze.md R160). -/
noncomputable def AnalyzeInput.transform (inp : AnalyzeInput) (m : Nat) : ℂ :=
  ∑ n ∈ Finset.range inp.length,
    inp.sample n * Complex.exp (-(2 * Real.pi * Complex.I * m * n / inp.length))

/-- The unshifted power `p[m] = |X[m]|^2 / N^2` (42_analyze.md R160). -/
noncomputable def AnalyzeInput.unshiftedPower (inp : AnalyzeInput) (m : Nat) : ℝ :=
  ‖inp.transform m‖ ^ 2 / (inp.length : ℝ) ^ 2

/-- The shifted power `P[k] = p[(k - h) mod N]` (42_analyze.md R161). -/
noncomputable def AnalyzeInput.power (inp : AnalyzeInput) (k : Nat) : ℝ := inp.unshiftedPower (inp.unshifted k)

/-- The sum of `P[k]` over a list of bins (42_analyze.md R164, R167, R168). -/
noncomputable def AnalyzeInput.powerSum (inp : AnalyzeInput) (bins : List Nat) : ℝ := (bins.map inp.power).sum

/-- The in-band average, the arithmetic mean of the linear bin powers (42_analyze.md R164). -/
noncomputable def AnalyzeInput.mean (inp : AnalyzeInput) : ℝ := inp.powerSum inp.band / (inp.band.length : ℝ)

/-- `thr = mean·10^(TH/10)` (42_analyze.md R165). -/
noncomputable def AnalyzeInput.threshold (inp : AnalyzeInput) : ℝ := inp.mean * (10 : ℝ) ^ ((inp.th : ℝ) / 10)

/-- `dcPower = p[0]`, before shifting (42_analyze.md R162). -/
noncomputable def AnalyzeInput.dcPower (inp : AnalyzeInput) : ℝ := inp.unshiftedPower 0

/-! ## The outcome and its conformance -/

/-- What `NUMERICS` decides once the exact parts are settled: whether a logarithm's argument was taken as zero,
the stored spectrum, the tones and the three decibel values (42_analyze.md R172). -/
structure AnalyzeOutcome where
  logDomain : Bool
  spec : Nat → DWord
  tone : Nat → Bool
  sigDb : DWord
  dcDb : DWord
  toneDb : DWord

/-- The tone bins `T` of an outcome; only in-band bins are classified (42_analyze.md R165). -/
def AnalyzeInput.tones (inp : AnalyzeInput) (o : AnalyzeOutcome) : List Nat := inp.band.filter o.tone

/-- The in-band bins that are not tones, `B \ T` (42_analyze.md R167). -/
def AnalyzeInput.nonTones (inp : AnalyzeInput) (o : AnalyzeOutcome) : List Nat :=
  inp.band.filter fun k => !o.tone k

/-- The arguments of the logarithms the analysis needs, under a classification of the in-band bins: `mean`, `p[0]`,
`sig`, and `tone` when there is a tone (42_analyze.md R169). -/
noncomputable def AnalyzeInput.logArgsOf (inp : AnalyzeInput) (tone : Nat → Bool) : List ℝ :=
  [inp.mean, inp.dcPower, inp.powerSum (inp.band.filter fun k => !tone k)] ++
    (if inp.band.filter tone = [] then [] else [inp.powerSum (inp.band.filter tone)])

/-- The log arguments "computed under the classification made" (42_analyze.md R172 item 4). -/
noncomputable def AnalyzeInput.logArgs (inp : AnalyzeInput) (o : AnalyzeOutcome) : List ℝ := inp.logArgsOf o.tone

/-- The reference class of an in-band bin: a tone iff `P[k] > thr`, strictly (42_analyze.md R165). -/
noncomputable def AnalyzeInput.referenceTone (inp : AnalyzeInput) (k : Nat) : Bool :=
  decide (inp.threshold < inp.power k)

/-- A binary64 encoding whose value is as near to a real number as the value of any encoding is: a rounding of that
number to nearest, a tie going either way. -/
def IsNearestBinary64 (b : DWord) (r : ℝ) : Prop :=
  ∃ v : Rat, binary64Value b = some v ∧
    ∀ (c : DWord) (w : Rat), binary64Value c = some w → |(v : ℝ) - r| ≤ |(w : ℝ) - r|

/-- A binary64 encoding lies within `tol` of a real number (42_analyze.md R172 items 2 and 4). DESIGN CHOICE (log 17):
where no encoding does, the rounding of the number to a nearest binary64 conforms, since every result is delivered as
binary64 and TOL_P and TOL_DB are open down to 0; a nearest encoding lies within `tol` whenever any encoding does, so
everywhere else the tolerance is literal. -/
def Binary64Near (b : DWord) (r tol : ℝ) : Prop :=
  (∃ v : Rat, binary64Value b = some v ∧ |(v : ℝ) - r| ≤ tol) ∨ IsNearestBinary64 b r

/-- `db(p) = 10·log10(p)` (00_scope.md R12). -/
noncomputable def decibels (p : ℝ) : ℝ := 10 * Real.logb 10 p

/-- 42_analyze.md R172 items 2 to 4: how far an outcome may lie from the reference, with the tolerances `TOL_P`
(absolute, linear power) and `TOL_DB` (decibels). Item 1 is exact and is computed by the machine. With both
tolerances 0 the outcome is the reference, rounded (log 17). -/
structure Conforms (tolP tolDb : Rat) (inp : AnalyzeInput) (o : AnalyzeOutcome) : Prop where
  /-- item 2: every stored bin power -/
  bins : ∀ k < inp.length, Binary64Near (o.spec k) (inp.power k) tolP
  /-- item 3: a bin outside the draw region has its reference class -/
  classes : ∀ k ∈ inp.band,
    ¬ (0 < tolP ∧ |inp.power k - inp.threshold| ≤ tolP * (1 + (10 : ℝ) ^ ((inp.th : ℝ) / 10))) →
      (o.tone k = true ↔ inp.threshold < inp.power k)
  /-- item 4: every argument clear of zero gives `OK` and close decibel values -/
  clear : (∀ a ∈ inp.logArgs o, (inp.length : ℝ) * tolP < a) →
    o.logDomain = false ∧ Binary64Near o.dcDb (decibels inp.dcPower) tolDb ∧
      Binary64Near o.sigDb (decibels (inp.powerSum (inp.nonTones o))) tolDb ∧
      (inp.tones o ≠ [] → Binary64Near o.toneDb (decibels (inp.powerSum (inp.tones o))) tolDb)
  /-- item 4: a zero argument gives `LOG_DOMAIN` when the tolerance is zero -/
  zero : tolP = 0 → (∃ a ∈ inp.logArgs o, a ≤ (inp.length : ℝ) * tolP) → o.logDomain = true

/-- A component of a sample of width `W`: a raw value from `-2^(W-1)` to `2^(W-1) - 1`, divided by `2^(W-1)` (41_unpack.md
R134, R135; 42_analyze.md R159). -/
def IsComponent (width : Nat) (x : Rat) : Prop :=
  ∃ raw : Int, -(2 : Int) ^ (width - 1) ≤ raw ∧ raw < (2 : Int) ^ (width - 1) ∧
    x = (raw : Rat) / ((2 ^ (width - 1) : Nat) : Rat)

/-- A rational number is the exact value of some binary64 encoding (42_analyze.md R150). -/
def IsBinary64 (x : Rat) : Prop := ∃ b : DWord, binary64Value b = some x

/-- The inputs `NUMERICS` is asked about, those `ANALYZE` can present it with: 1 to 65536 samples (42_analyze.md R153, R157)
of one width from 1 to 30 (R152, R159), legal parameters that are values of binary64 encodings (R150, R158), and a band
that is not empty (R163). -/
def AnalyzeInput.InRange (inp : AnalyzeInput) : Prop :=
  (1 ≤ inp.length ∧ inp.length ≤ 65536) ∧
    (∃ width, 1 ≤ width ∧ width ≤ 30 ∧ ∀ x ∈ inp.samples, IsComponent width x.1 ∧ IsComponent width x.2) ∧
    (IsBinary64 inp.fs ∧ IsBinary64 inp.cf ∧ IsBinary64 inp.bw ∧ IsBinary64 inp.th ∧ 0 < inp.fs ∧ 0 ≤ inp.bw) ∧
    inp.band ≠ []

/-- The parameter `NUMERICS` with its tolerances (42_analyze.md R172, 00_scope.md R7): a total function of the
input whose outcome conforms on every input it is asked about. -/
structure Numerics where
  tolP : Rat
  tolDb : Rat
  tolP_nonneg : 0 ≤ tolP
  tolDb_nonneg : 0 ≤ tolDb
  outcome : AnalyzeInput → AnalyzeOutcome
  conforms : ∀ inp, inp.InRange → Conforms tolP tolDb inp (outcome inp)

end Sys2Proof.Machine
end

