-- ==== Sys2Proof/Machine/Numerics.lean ====
section
/-!
DEFINITION. The parameter type `NUMERICS` of 42_analyze.md R172 is inhabited: every reference power of in-range
samples is at most 2, so the coarsest tolerance `TOL_P = 2` is met by an outcome that stores zeros and reports
`LOG_DOMAIN`. This only shows that asking for a conforming parameter is no contradiction; the parameter the model
uses is the opaque `Config.numerics`.
-/
namespace Sys2Proof.Machine

/-- Both components of a sample in range lie in `[-1, 1]` (41_unpack.md R135). -/
theorem IsComponent.abs_le_one {width : Nat} {x : Rat} (h : IsComponent width x) : |x| ≤ 1 := by
  obtain ⟨raw, h1, h2, rfl⟩ := h
  have hp : (0 : Rat) < ((2 ^ (width - 1) : Nat) : Rat) := by positivity
  rw [abs_div, abs_of_pos hp, div_le_one hp]
  have h1' : -(2 : Rat) ^ (width - 1) ≤ raw := by exact_mod_cast h1
  have h2' : (raw : Rat) ≤ (2 : Rat) ^ (width - 1) := by exact_mod_cast h2.le
  push_cast
  exact abs_le.2 ⟨h1', h2'⟩

/-- An input in range has samples, whose components lie in `[-1, 1]`. -/
theorem AnalyzeInput.InRange.components {inp : AnalyzeInput} (h : inp.InRange) :
    inp.samples ≠ [] ∧ ∀ x ∈ inp.samples, |x.1| ≤ 1 ∧ |x.2| ≤ 1 := by
  obtain ⟨⟨h1, -⟩, ⟨width, -, -, hx⟩, -, -⟩ := h
  exact ⟨List.length_pos_iff.1 h1, fun x hm => ⟨(hx x hm).1.abs_le_one, (hx x hm).2.abs_le_one⟩⟩

/-- A sample whose two components lie in `[-1, 1]` has squared modulus at most 2 (41_unpack.md R135). -/
theorem AnalyzeInput.norm_sample_le {inp : AnalyzeInput}
    (h : ∀ x ∈ inp.samples, |x.1| ≤ 1 ∧ |x.2| ≤ 1) (n : Nat) : ‖inp.sample n‖ ≤ Real.sqrt 2 := by
  have hx : |(inp.samples.getD n (0, 0)).1| ≤ 1 ∧ |(inp.samples.getD n (0, 0)).2| ≤ 1 := by
    rw [List.getD_eq_getElem?_getD]
    cases hn : inp.samples[n]? with
    | none => simp
    | some x => simpa using h x (List.mem_of_getElem? hn)
  have hre : |((inp.samples.getD n (0, 0)).1 : ℝ)| ≤ 1 := by exact_mod_cast hx.1
  have him : |((inp.samples.getD n (0, 0)).2 : ℝ)| ≤ 1 := by exact_mod_cast hx.2
  rw [Complex.norm_def]
  apply Real.sqrt_le_sqrt
  have e : Complex.normSq (inp.sample n) =
      ((inp.samples.getD n (0, 0)).1 : ℝ) ^ 2 + ((inp.samples.getD n (0, 0)).2 : ℝ) ^ 2 := by
    simp only [AnalyzeInput.sample, Complex.normSq_mk]; ring
  rw [e]
  have h1 := (sq_le_one_iff_abs_le_one _).2 hre
  have h2 := (sq_le_one_iff_abs_le_one _).2 him
  linarith

/-- Every factor of the transform has modulus 1. -/
theorem norm_twiddle (m n N : Nat) :
    ‖Complex.exp (-(2 * Real.pi * Complex.I * m * n / N))‖ = 1 := by
  have e : (-(2 * Real.pi * Complex.I * m * n / N) : ℂ) = ((-(2 * Real.pi * m * n / N) : ℝ) : ℂ) * Complex.I := by
    push_cast; ring
  rw [e, Complex.norm_exp_ofReal_mul_I]

/-- `|X[m]| <= N·√2`: the triangle inequality over the `N` samples. -/
theorem AnalyzeInput.norm_transform_le {inp : AnalyzeInput}
    (h : ∀ x ∈ inp.samples, |x.1| ≤ 1 ∧ |x.2| ≤ 1) (m : Nat) :
    ‖inp.transform m‖ ≤ inp.length * Real.sqrt 2 := by
  refine (norm_sum_le _ _).trans ?_
  refine (Finset.sum_le_card_nsmul _ _ (Real.sqrt 2) ?_).trans_eq (by simp [nsmul_eq_mul])
  intro n _
  rw [norm_mul, norm_twiddle, mul_one]
  exact norm_sample_le h n

/-- Every reference power lies in `[0, 2]`. -/
theorem AnalyzeInput.unshiftedPower_bounds {inp : AnalyzeInput} (hne : inp.samples ≠ [])
    (h : ∀ x ∈ inp.samples, |x.1| ≤ 1 ∧ |x.2| ≤ 1) (m : Nat) :
    0 ≤ inp.unshiftedPower m ∧ inp.unshiftedPower m ≤ 2 := by
  have hN : (0 : ℝ) < (inp.length : ℝ) := by
    exact_mod_cast List.length_pos_iff.2 hne
  refine ⟨by unfold unshiftedPower; positivity, ?_⟩
  unfold unshiftedPower
  rw [div_le_iff₀ (by positivity)]
  have := pow_le_pow_left₀ (norm_nonneg _) (norm_transform_le h m) 2
  rw [mul_pow, Real.sq_sqrt (by norm_num)] at this
  linarith

/-- Every shifted reference power lies in `[0, 2]`. -/
theorem AnalyzeInput.power_bounds {inp : AnalyzeInput} (h : inp.InRange) (k : Nat) :
    0 ≤ inp.power k ∧ inp.power k ≤ 2 :=
  unshiftedPower_bounds h.components.1 h.components.2 (inp.unshifted k)

/-- The mean in-band power lies in `[0, 2]` when the band is not empty. -/
theorem AnalyzeInput.mean_bounds {inp : AnalyzeInput} (h : inp.InRange) : 0 ≤ inp.mean ∧ inp.mean ≤ 2 := by
  have hb := h.2.2.2
  have hB : (0 : ℝ) < (inp.band.length : ℝ) := by exact_mod_cast List.length_pos_iff.2 hb
  have h0 : 0 ≤ inp.powerSum inp.band :=
    List.sum_nonneg (by simpa using fun k _ => (power_bounds h k).1)
  have h2 : inp.powerSum inp.band ≤ inp.band.length * 2 := by
    have := List.sum_le_card_nsmul (inp.band.map inp.power) 2
      (by simpa using fun k _ => (power_bounds h k).2)
    simpa [powerSum, nsmul_eq_mul] using this
  exact ⟨div_nonneg h0 hB.le, (div_le_iff₀ hB).2 (by linarith)⟩

/-- An outcome that stores zeros, names no tone and reports `LOG_DOMAIN`. -/
def AnalyzeOutcome.silent : AnalyzeOutcome :=
  { logDomain := true, spec := fun _ => 0#64, tone := fun _ => false, sigDb := 0#64, dcDb := 0#64, toneDb := 0#64 }

/-- The encoding of `+0.0` denotes 0. -/
theorem binary64Value_zero : binary64Value 0#64 = some 0 := by decide +kernel

/-- Every in-range bin lies within the coarsest draw region of the threshold. -/
theorem AnalyzeInput.power_near_threshold {inp : AnalyzeInput} (h : inp.InRange) (k : Nat) :
    |inp.power k - inp.threshold| ≤ 2 * (1 + (10 : ℝ) ^ ((inp.th : ℝ) / 10)) := by
  obtain ⟨hm0, hm2⟩ := mean_bounds h
  obtain ⟨h0, h2⟩ := power_bounds h k
  have hq : (0 : ℝ) < (10 : ℝ) ^ ((inp.th : ℝ) / 10) := by positivity
  have ht0 : 0 ≤ inp.threshold := mul_nonneg hm0 hq.le
  have ht2 : inp.threshold ≤ 2 * (10 : ℝ) ^ ((inp.th : ℝ) / 10) := mul_le_mul_of_nonneg_right hm2 hq.le
  rw [abs_le]
  constructor <;> linarith

/-- The silent outcome conforms within `TOL_P = 2`. -/
theorem conforms_silent {inp : AnalyzeInput} (h : inp.InRange) : Conforms 2 0 inp .silent where
  bins k _ := by
    obtain ⟨h0, h2⟩ := AnalyzeInput.power_bounds h k
    refine .inl ⟨0, binary64Value_zero, ?_⟩
    rw [Rat.cast_zero, zero_sub, abs_neg, abs_of_nonneg h0]
    exact_mod_cast h2
  classes k _ hfar :=
    absurd ⟨by norm_num, by exact_mod_cast AnalyzeInput.power_near_threshold h k⟩ hfar
  clear hclear := by
    have hN : (1 : ℝ) ≤ (inp.length : ℝ) := by exact_mod_cast h.1.1
    have hlt := hclear inp.mean (by simp [AnalyzeInput.logArgs, AnalyzeInput.logArgsOf])
    have hm2 := (AnalyzeInput.mean_bounds h).2
    push_cast at hlt
    linarith
  zero h0 := by norm_num at h0

/-- A conforming parameter exists, with the coarsest tolerance. -/
def Numerics.coarse : Numerics where
  tolP := 2
  tolDb := 0
  tolP_nonneg := by norm_num
  tolDb_nonneg := le_refl 0
  outcome := fun _ => .silent
  conforms := fun _ h => conforms_silent h

end Sys2Proof.Machine
end

