-- ==== Sys2Proof/Config.lean ====
section
/-!
DEFINITION. What this hardware fixes (00_scope.md R7, 20_memory.md R64) and what the spec leaves open: the OPEN
parameters and the free values, opaque constants of which nothing can be evaluated (00_scope.md R13,
93_implementation_defined.md).
-/
namespace Sys2Proof.Config

/-- `CAP`, the capacity of every buffer in elements (00_scope.md R7). -/
def capacity : Nat := 65536

/-- The constant the read-only register `ID` holds (10_state.md R21). -/
def idWord : Word := 0x47440007#32

/-- The sentinel end address, "capture incomplete/no wrap observed" (10_state.md R25, 40_frame.md R113). -/
def sentinel : Word := 0x80000000#32

/-- The first byte address of the `WORD` window (20_memory.md R64). -/
def wordBase : Nat := 0x040000

/-- The first byte address of the `IQI` window (20_memory.md R64). -/
def iqiBase : Nat := 0x080000

/-- The first byte address of the `IQQ` window (20_memory.md R64). -/
def iqqBase : Nat := 0x0C0000

/-- The first byte address of the `SPEC` window (20_memory.md R64). -/
def specBase : Nat := 0x100000

/-- The first byte address of the `CLASS` window (20_memory.md R64). -/
def classBase : Nat := 0x180000

/-- The first byte address above the `CLASS` window (20_memory.md R64). -/
def bufferEnd : Nat := 0x1C0000

/-- DESIGN CHOICE (log 13): an UNSPECIFIED value of a stated width, the `draw`-th one the machine has drawn
(00_scope.md R13). -/
opaque freeBits (draw width : Nat) : BitVec width

/-- DESIGN CHOICE (log 4): what a buffer byte that nothing has written reads as, one free value for each
generation of contents and each address (10_state.md R40 to R44). -/
opaque freeByte (generation addr : Nat) : Byte

/-- `SAB_BASE` (OPEN, 20_memory.md R60; log 11): the upper bits of the addresses the platform routes to the SAB. -/
opaque sabBase : BitVec 11

/-- The parameter `NUMERICS` of an implementation, some conforming one (42_analyze.md R172). The inhabitant it asks
for only shows that there is one. -/
opaque numericsOf [Inhabited Machine.Numerics] : Machine.Numerics

/-- `NUMERICS`, `TOL_P` and `TOL_DB` of this hardware (OPEN, 00_scope.md R7, 42_analyze.md R172; log 7). -/
def numerics : Machine.Numerics := @numericsOf ⟨Machine.Numerics.coarse⟩

end Sys2Proof.Config
end

