-- ==== Sys2Proof/Machine/AddressMap.lean ====
section
/-!
DEFINITION. The address map of the aperture (20_memory.md R60, R64, R65).
-/
namespace Sys2Proof.Machine

/-- What an aperture address stands for (20_memory.md R64). -/
inductive Target where
  | reg (r : RegName)
  | word (n : Nat)
  | iqi (n : Nat)
  | iqq (n : Nat)
  | specLo (k : Nat)
  | specHi (k : Nat)
  | cls (k : Nat)
  | unmapped
  deriving DecidableEq, Repr

/-- The byte offset of each register (20_memory.md R64). -/
def regOffset : RegName → Nat
  | .id => 0x00
  | .cmd => 0x04
  | .status => 0x08
  | .base => 0x0C
  | .endAddr => 0x10
  | .len => 0x14
  | .layout => 0x18
  | .nsamp => 0x1C
  | .sampleWidth => 0x20
  | .lineAddr => 0x24
  | .lineW0 => 0x28
  | .lineW1 => 0x2C
  | .lineW2 => 0x30
  | .lineW3 => 0x34
  | .fsLo => 0x40
  | .fsHi => 0x44
  | .cfLo => 0x48
  | .cfHi => 0x4C
  | .bwLo => 0x50
  | .bwHi => 0x54
  | .thLo => 0x58
  | .thHi => 0x5C
  | .sigLo => 0x60
  | .sigHi => 0x64
  | .dcLo => 0x68
  | .dcHi => 0x6C
  | .toneLo => 0x70
  | .toneHi => 0x74
  | .nband => 0x78
  | .ntone => 0x7C
  | .nspec => 0x80

/-- Every register of the map, in its order (20_memory.md R64). -/
def allRegs : List RegName :=
  [.id, .cmd, .status, .base, .endAddr, .len, .layout, .nsamp, .sampleWidth, .lineAddr, .lineW0, .lineW1, .lineW2,
    .lineW3, .fsLo, .fsHi, .cfLo, .cfHi, .bwLo, .bwHi, .thLo, .thHi, .sigLo, .sigHi, .dcLo, .dcHi, .toneLo, .toneHi,
    .nband, .ntone, .nspec]

/-- The register at a byte offset, if one is mapped there (20_memory.md R64, R65). -/
def regAt (offset : Nat) : Option RegName := allRegs.find? fun r => regOffset r == offset

/-- The byte address of `WORD[n]` (20_memory.md R64). -/
def wordAddr (n : Nat) : Nat := Config.wordBase + 4 * n

/-- The byte address of `IQI[n]` (20_memory.md R64). -/
def iqiAddr (n : Nat) : Nat := Config.iqiBase + 4 * n

/-- The byte address of `IQQ[n]` (20_memory.md R64). -/
def iqqAddr (n : Nat) : Nat := Config.iqqBase + 4 * n

/-- The byte address of `SPEC[k]` bits 31:0; bits 63:32 lie 4 above (20_memory.md R64). -/
def specAddr (k : Nat) : Nat := Config.specBase + 8 * k

/-- The byte address of `CLASS[k]` (20_memory.md R64). -/
def classAddr (k : Nat) : Nat := Config.classBase + 4 * k

/-- The aperture offset of an address: the SAB decodes only the low 21 bits (20_memory.md R60). -/
def apertureOffset (addr : Word) : Nat := addr.toNat % 2 ^ 21

/-- What a word-aligned aperture offset stands for (20_memory.md R64, R65). -/
def targetAt (offset : Nat) : Target :=
  if offset < Config.wordBase then
    match regAt offset with
    | some r => .reg r
    | none => .unmapped
  else if offset < Config.iqiBase then .word ((offset - Config.wordBase) / 4)
  else if offset < Config.iqqBase then .iqi ((offset - Config.iqiBase) / 4)
  else if offset < Config.specBase then .iqq ((offset - Config.iqqBase) / 4)
  else if offset < Config.classBase then
    if (offset - Config.specBase) % 8 < 4 then .specLo ((offset - Config.specBase) / 8)
    else .specHi ((offset - Config.specBase) / 8)
  else if offset < Config.bufferEnd then .cls ((offset - Config.classBase) / 4)
  else .unmapped

/-- The address the platform routes to an aperture offset, at the system base `SAB_BASE` (20_memory.md R60;
log 11). -/
def systemAddr (offset : Nat) : Word := Config.sabBase ++ BitVec.ofNat 21 offset

end Sys2Proof.Machine
end

