-- ==== Sys2Proof/Machine/State.lean ====
section
/-!
DEFINITION. The state of the SAB: the memory-mapped registers, the buffers and the sequencer (10_state.md R20 to
R47), its value after reset (70_reset_and_hazards.md R210), and the reasons a step can stop.
-/
namespace Sys2Proof.Machine

/-- The error codes of `STATUS.ERR`, in the order of their numbers 0 to 10 (60_exceptions.md R192). The reserved
codes 11 to 15 are never reported, so they have no constructor. -/
inductive ErrCode where
  | ok
  | badCmd
  | noncontig
  | overflow
  | incomplete
  | range
  | format
  | empty
  | param
  | emptyBand
  | logDomain
  deriving DecidableEq, Repr

/-- The snapshot `S` of every register a command reads, taken at issue (10_state.md R45). -/
structure Snapshot where
  base : Word
  len : BitVec 17
  endAddr : Word
  layout : Word
  nsamp : BitVec 17
  sampleWidth : BitVec 5
  lineAddr : Word
  lineW0 : Word
  lineW1 : Word
  lineW2 : Word
  lineW3 : Word
  fs : DWord
  cf : DWord
  bw : DWord
  th : DWord
  frameBad : Bool
  deriving DecidableEq, Repr

/-- A command in progress, `RUN(c, S)` (10_state.md R45). `dropped` says whether a `CMD` write was dropped since
the issue, which `CLEAR` must not forget (40_frame.md R102, 90_conflicts.md C12; log 9). -/
structure Run where
  word : Word
  snap : Snapshot
  dropped : Bool
  deriving DecidableEq, Repr

/-- The sequencer state `SEQ` (10_state.md R45). -/
inductive Seq where
  | idle
  | run (r : Run)
  deriving DecidableEq, Repr

/-- The buffers `WORD`, `IQI`, `IQQ`, `SPEC` and `CLASS`, as the bytes written so far at their aperture addresses
(10_state.md R40 to R44, 20_memory.md R64). An address that is not listed reads as a free value of the generation
its buffer has (log 4). -/
structure Memory where
  cells : List Host.Cell
  /-- the generation of free contents of `WORD`, `IQI` and `IQQ` -/
  baseGen : Nat
  /-- the generation of free contents of `SPEC` and `CLASS` -/
  resultGen : Nat
  deriving DecidableEq, Repr

/-- The machine state. `STATUS.BUSY` is not stored: it is 1 exactly when `seq` is a run (10_state.md R45). The last
four fields are the model's own (logs 2, 3, 13 and 18). -/
structure State where
  /-- `STATUS.DONE` (10_state.md R23) -/
  done : Bool
  /-- `STATUS.FRAME_BAD` (10_state.md R23) -/
  frameBad : Bool
  /-- `STATUS.OVERRUN` (10_state.md R23) -/
  overrun : Bool
  /-- `STATUS.TONE_VALID` (10_state.md R23) -/
  toneValid : Bool
  /-- `STATUS.ERR` (10_state.md R23) -/
  err : ErrCode
  /-- `BASE` (10_state.md R24) -/
  base : Word
  /-- `END_ADDR` (10_state.md R25) -/
  endAddr : Word
  /-- `LEN` (10_state.md R26) -/
  len : BitVec 17
  /-- `LAYOUT` (10_state.md R27) -/
  layout : Word
  /-- `NSAMP` (10_state.md R28) -/
  nsamp : BitVec 17
  /-- `SAMPLE_WIDTH` (10_state.md R29) -/
  sampleWidth : BitVec 5
  /-- `LINE_ADDR` (10_state.md R30) -/
  lineAddr : Word
  /-- `LINE_W0` (10_state.md R30) -/
  lineW0 : Word
  /-- `LINE_W1` (10_state.md R30) -/
  lineW1 : Word
  /-- `LINE_W2` (10_state.md R30) -/
  lineW2 : Word
  /-- `LINE_W3` (10_state.md R30) -/
  lineW3 : Word
  /-- `FS` (10_state.md R31) -/
  fs : DWord
  /-- `CF` (10_state.md R37) -/
  cf : DWord
  /-- `BW` (10_state.md R38) -/
  bw : DWord
  /-- `TH` (10_state.md R39) -/
  th : DWord
  /-- `SIG_DB` (10_state.md R32) -/
  sigDb : DWord
  /-- `DC_DB` (10_state.md R33) -/
  dcDb : DWord
  /-- `TONE_DB` (10_state.md R34) -/
  toneDb : DWord
  /-- `NBAND` (10_state.md R35) -/
  nband : Word
  /-- `NTONE` (10_state.md R35) -/
  ntone : Word
  /-- `NSPEC` (10_state.md R36) -/
  nspec : BitVec 17
  /-- `SEQ` (10_state.md R45) -/
  seq : Seq
  /-- `WORD`, `IQI`, `IQQ`, `SPEC`, `CLASS` (10_state.md R40 to R44) -/
  mem : Memory
  /-- the model's own: how the last `ANALYZE` completed since reset, if one did (70_reset_and_hazards.md R220;
  log 18) -/
  lastAnalysis : Option ErrCode
  /-- the model's own: the number of the next free value to draw (log 13) -/
  draws : Nat
  /-- the model's own: the value the host's last read returned (log 13) -/
  rdata : Word
  /-- the model's own: the outside events still to come, the next one first (log 2) -/
  inputs : List Input
  deriving DecidableEq, Repr

/-- The reasons to stop with a fault. No step of the SAB faults: every error is a normal completion
(60_exceptions.md R195). These are raised only by `Safety.contractStep`, the machine that stops where the spec
calls the behaviour out of contract (93_implementation_defined.md rows 3 and 4; log 1). -/
inductive Fault where
  /-- raised by `Safety.contractStep` when an `ANALYZE` reports `EMPTY` (93 row 4). Safe: it stops where the
  hardware goes on. -/
  | emptyInput
  /-- raised by `Safety.contractStep` when an `ANALYZE` reports `LOG_DOMAIN` or some logarithm's argument is not above
  `N·TOL_P`, whatever it reports (42_analyze.md R172 item 4, 93 row 3). Safe: it stops where the hardware goes on. -/
  | logDomain
  deriving DecidableEq, Repr

/-- The reasons a step is refused: inputs a well-formed host never presents (93_implementation_defined.md rows 7, 8
and 10; log 10). No command is ever refused. -/
inductive Refusal where
  /-- an instruction without a meaning; no arm of `exec` uses it. Safe. -/
  | notModelled (mnemonic : String)
  /-- raised by a host access that is not 32 bits wide or not 4-byte aligned (20_memory.md R67). Safe: the
  hardware goes on with UNSPECIFIED values. -/
  | malformedAccess
  /-- raised by an access of a second bus master (20_memory.md R70). Safe: the hardware goes on with UNSPECIFIED
  values. -/
  | otherMaster
  /-- raised by a host write of `WORD` or `LEN` that the running command uses (70_reset_and_hazards.md R217(b)).
  Safe: the hardware goes on with UNSPECIFIED values. -/
  | busyWriteHazard
  deriving DecidableEq, Repr

/-- The state a reset leaves (70_reset_and_hazards.md R210), with the buffers holding the free contents of
generation `gen` (log 4) and the model's own fields as given. -/
def State.resetWith (gen draws : Nat) (rdata : Word) (inputs : List Input) : State where
  done := false
  frameBad := false
  overrun := false
  toneValid := false
  err := .ok
  base := 0x00000000#32
  endAddr := 0x80000000#32
  len := 0#17
  layout := 0x00000000#32
  nsamp := 0#17
  sampleWidth := 0#5
  lineAddr := 0x00000000#32
  lineW0 := 0x00000000#32
  lineW1 := 0x00000000#32
  lineW2 := 0x00000000#32
  lineW3 := 0x00000000#32
  fs := 0x0000000000000000#64
  cf := 0x3FE8000000000000#64
  bw := 0x3FF0000000000000#64
  th := 0x4024000000000000#64
  sigDb := 0x0000000000000000#64
  dcDb := 0x0000000000000000#64
  toneDb := 0x0000000000000000#64
  nband := 0x00000000#32
  ntone := 0x00000000#32
  nspec := 0#17
  seq := .idle
  mem := { cells := [], baseGen := gen, resultGen := gen }
  lastAnalysis := none
  draws := draws
  rdata := rdata
  inputs := inputs

/-- The machine right after power-on reset (70_reset_and_hazards.md R210, R212): idle, with no outside event
pending. -/
def State.reset : State := State.resetWith 0 1 0#32 []

end Sys2Proof.Machine
end

