-- ==== Sys2Proof/Machine/Flags.lean ====
section
/-!
DEFINITION. The fields of `STATUS` and the word they make (10_state.md R23, 60_exceptions.md R192).
-/
namespace Sys2Proof.Machine

/-- The number of an error code in `STATUS.ERR` (60_exceptions.md R192). -/
def ErrCode.code : ErrCode → BitVec 4
  | .ok => 0#4
  | .badCmd => 1#4
  | .noncontig => 2#4
  | .overflow => 3#4
  | .incomplete => 4#4
  | .range => 5#4
  | .format => 6#4
  | .empty => 7#4
  | .param => 8#4
  | .emptyBand => 9#4
  | .logDomain => 10#4

/-- Is a command running (`SEQ = RUN(...)`, 10_state.md R45)? -/
def Seq.isRun : Seq → Bool
  | .idle => false
  | .run _ => true

/-- `STATUS.BUSY`, 1 exactly when `SEQ = RUN(...)` (10_state.md R23, R45). -/
def State.busy (s : State) : Bool := s.seq.isRun

/-- The `STATUS` word of its fields: bit 0 `BUSY`, 1 `DONE`, 2 `FRAME_BAD`, 3 `OVERRUN`, 4 `TONE_VALID`, 11:8 `ERR`,
every other bit 0 (10_state.md R23). -/
def statusOf (busy done frameBad overrun toneValid : Bool) (err : ErrCode) : Word :=
  0#20 ++ err.code ++ 0#3 ++ BitVec.ofBool toneValid ++ BitVec.ofBool overrun ++ BitVec.ofBool frameBad ++
    BitVec.ofBool done ++ BitVec.ofBool busy

/-- The register `STATUS` (10_state.md R23). -/
def State.status (s : State) : Word := statusOf s.busy s.done s.frameBad s.overrun s.toneValid s.err

end Sys2Proof.Machine
end

