-- ==== Sys2Proof/Machine/Ops.lean ====
section
/-!
DEFINITION. The named operations over memory and registers: byte order, reads and writes of the buffers
(20_memory.md R66), the snapshot, issue and completion of a command (10_state.md R45, 60_exceptions.md R190, R191),
and the free values drawn where the spec says UNSPECIFIED (00_scope.md R13).
-/
namespace Sys2Proof.Machine

/-! ## Byte order (20_memory.md R66) -/

/-- The four bytes of a word, the lowest address first. -/
def wordBytes (w : Word) : List Byte :=
  [w.extractLsb' 0 8, w.extractLsb' 8 8, w.extractLsb' 16 8, w.extractLsb' 24 8]

/-- Bits 31:0 of a 64-bit value (10_state.md R46). -/
def loHalf (d : DWord) : Word := d.extractLsb' 0 32

/-- Bits 63:32 of a 64-bit value (10_state.md R46). -/
def hiHalf (d : DWord) : Word := d.extractLsb' 32 32

/-- The eight bytes of a 64-bit value: bits 31:0 at the lower word. -/
def dwordBytes (d : DWord) : List Byte := wordBytes (loHalf d) ++ wordBytes (hiHalf d)

/-- A 64-bit register with a new low half (10_state.md R46). -/
def setLo (d : DWord) (v : Word) : DWord := hiHalf d ++ v

/-- A 64-bit register with a new high half (10_state.md R46). -/
def setHi (d : DWord) (v : Word) : DWord := v ++ loHalf d

/-! ## The buffers' memory -/

/-- Bytes placed at consecutive addresses. -/
def cellsAt : Nat → List Byte → List Host.Cell
  | _, [] => []
  | a, b :: bs => (a, b) :: cellsAt (a + 1) bs

/-- What an unlisted address reads as: the free contents of its buffer's generation (10_state.md R40 to R44;
log 4). -/
def Memory.unlisted (m : Memory) (addr : Nat) : Byte :=
  Config.freeByte (if addr < Config.specBase then m.baseGen else m.resultGen) addr

/-- One byte of the buffers. -/
def Memory.readByte (m : Memory) (addr : Nat) : Byte :=
  match m.cells.lookup addr with
  | some b => b
  | none => m.unlisted addr

/-- The 32-bit word at a byte address, little-endian (20_memory.md R66). -/
def Memory.readWord (m : Memory) (addr : Nat) : Word :=
  m.readByte (addr + 3) ++ m.readByte (addr + 2) ++ m.readByte (addr + 1) ++ m.readByte addr

/-- `count` consecutive words. -/
def Memory.readWords (m : Memory) (addr count : Nat) : List Word :=
  (List.range count).map fun n => m.readWord (addr + 4 * n)

/-- Bytes stored from an address on, everything else kept. -/
def Memory.writeBytes (m : Memory) (addr : Nat) (bytes : List Byte) : Memory :=
  { m with
    cells := m.cells.filter (fun c => decide (c.1 < addr)) ++ cellsAt addr bytes ++
      m.cells.filter (fun c => decide (addr + bytes.length ≤ c.1)) }

/-- One word stored at a byte address. -/
def Memory.writeWord (m : Memory) (addr : Nat) (w : Word) : Memory := m.writeBytes addr (wordBytes w)

/-- Consecutive words stored from a byte address on. -/
def Memory.writeWords (m : Memory) (addr : Nat) (ws : List Word) : Memory := m.writeBytes addr (ws.flatMap wordBytes)

/-- Consecutive 64-bit values stored from a byte address on (10_state.md R46). -/
def Memory.writeDWords (m : Memory) (addr : Nat) (ds : List DWord) : Memory :=
  m.writeBytes addr (ds.flatMap dwordBytes)

/-- `SPEC` and `CLASS` lose their contents: every element is UNSPECIFIED, in a new generation (42_analyze.md R171). -/
def Memory.forgetResults (m : Memory) (gen : Nat) : Memory :=
  { m with cells := m.cells.filter (fun c => decide (c.1 < Config.specBase)), resultGen := gen }

/-- Strictly rising addresses, starting at `lo` or above. -/
def risingFrom (lo : Nat) : List Host.Cell → Bool
  | [] => true
  | c :: cs => decide (lo ≤ c.1) && risingFrom (c.1 + 1) cs

/-- The canonical form of the buffers' memory: strictly rising addresses inside the buffer windows. A listed byte
is a written one and an unlisted one was never written, so no entry stands for what its absence stands for (log 4). -/
def Memory.wf (m : Memory) : Bool :=
  risingFrom Config.wordBase m.cells && m.cells.all fun c => decide (c.1 < Config.bufferEnd)

/-! ## Operands of a command -/

/-- The registers a command reads, as they stand now (10_state.md R45). -/
def State.snapshot (s : State) : Snapshot where
  base := s.base
  len := s.len
  endAddr := s.endAddr
  layout := s.layout
  nsamp := s.nsamp
  sampleWidth := s.sampleWidth
  lineAddr := s.lineAddr
  lineW0 := s.lineW0
  lineW1 := s.lineW1
  lineW2 := s.lineW2
  lineW3 := s.lineW3
  fs := s.fs
  cf := s.cf
  bw := s.bw
  th := s.th
  frameBad := s.frameBad

/-- The operands `S` of the running command: "A command reads its register operands from `S`, never from the live
registers" (10_state.md R45). With no command running, the registers as a command issued now would see them
(log 12). -/
def State.operands (s : State) : Snapshot :=
  match s.seq with
  | .run r => r.snap
  | .idle => s.snapshot

/-- Was a `CMD` write dropped since the running command's issue (40_frame.md R102; log 9)? -/
def State.droppedInRun (s : State) : Bool :=
  match s.seq with
  | .run r => r.dropped
  | .idle => false

/-! ## Issue and completion -/

/-- The sequencer accepts command word `c` (60_exceptions.md R190, `SEQ = IDLE`). -/
def State.startRun (s : State) (c : Word) : State :=
  { s with done := false, err := .ok, seq := .run { word := c, snap := s.snapshot, dropped := false } }

/-- A `CMD` write that arrives during run `r` is dropped and recorded (60_exceptions.md R190, `BUSY = 1`). -/
def State.dropCommand (s : State) (r : Run) : State :=
  { s with overrun := true, seq := .run { r with dropped := true } }

/-- A host write of word `c` to `CMD` (60_exceptions.md R190). -/
def State.issue (s : State) (c : Word) : State :=
  match s.seq with
  | .idle => s.startRun c
  | .run r => s.dropCommand r

/-- `complete(e)`: the last step of every command (60_exceptions.md R191). -/
def State.complete (s : State) (e : ErrCode) : State := { s with err := e, done := true, seq := .idle }

/-- `complete(e)` of an `ANALYZE`: its code is also remembered as the last analysis's, on which the meaning of the result
registers depends (60_exceptions.md R191, 70_reset_and_hazards.md R220; log 18). -/
def State.completeAnalysis (s : State) (e : ErrCode) : State := { s.complete e with lastAnalysis := some e }

/-- The frame failed its continuity or capacity check (40_frame.md R108). -/
def State.markFrameBad (s : State) : State := { s with frameBad := true }

/-! ## Reset and free values -/

/-- The platform asserts reset: any running command is abandoned and the buffers take new UNSPECIFIED contents
(70_reset_and_hazards.md R210, R211; logs 4 and 14). -/
def State.hardReset (s : State) : State := State.resetWith s.draws (s.draws + 1) s.rdata s.inputs

/-- The results of an analysis become UNSPECIFIED: `SPEC`, `CLASS`, `NSPEC`, `NBAND`, `NTONE`, `SIG_DB`, `DC_DB`,
`TONE_DB` and `TONE_VALID`, each a free value of its own (42_analyze.md R171; log 6). -/
def State.forgetResults (s : State) : State :=
  { s with
    sigDb := Config.freeBits s.draws 64
    dcDb := Config.freeBits (s.draws + 1) 64
    toneDb := Config.freeBits (s.draws + 2) 64
    nband := Config.freeBits (s.draws + 3) 32
    ntone := Config.freeBits (s.draws + 4) 32
    nspec := Config.freeBits (s.draws + 5) 17
    toneValid := (Config.freeBits (s.draws + 6) 1).getLsbD 0
    mem := s.mem.forgetResults s.draws
    draws := s.draws + 7 }

end Sys2Proof.Machine
end

