-- ==== Sys2Proof/Machine/Operands.lean ====
section
/-!
DEFINITION. The operand forms: the line offset (40_frame.md R107), the bit layout and its fields (30_encoding.md
R85; 41_unpack.md R131 to R135), and the analyzer's parameters and samples (42_analyze.md R158, R159).
-/
namespace Sys2Proof.Machine

/-! ## The readback line -/

/-- `offset = u32(LINE_ADDR - BASE)` (40_frame.md R107). -/
def Snapshot.lineOffset (S : Snapshot) : Word := S.lineAddr - S.base

/-- The words of the staged line, in the order they are appended (40_frame.md R109). -/
def Snapshot.lineWords (S : Snapshot) : List Word := [S.lineW0, S.lineW1, S.lineW2, S.lineW3]

/-! ## The bit layout -/

/-- The layout "`msb_i:lsb_i, msb_q:lsb_q`" (10_state.md R27). -/
structure Layout where
  msbI : Byte
  lsbI : Byte
  msbQ : Byte
  lsbQ : Byte
  deriving DecidableEq, Repr

/-- The four fields of `LAYOUT` (30_encoding.md R85). -/
def layoutOf (w : Word) : Layout where
  msbI := w.extractLsb' 24 8
  lsbI := w.extractLsb' 16 8
  msbQ := w.extractLsb' 8 8
  lsbQ := w.extractLsb' 0 8

/-- The descriptor `"a:b, c:d"` as a `LAYOUT` word (30_encoding.md R85). -/
def layoutWord (l : Layout) : Word := l.msbI ++ l.lsbI ++ l.msbQ ++ l.lsbQ

/-- `legal(mi, li, mq, lq)` (41_unpack.md R131, 10_state.md R27 (a) to (d)). -/
def layoutLegal (l : Layout) : Bool :=
  decide (l.lsbI.toNat < l.msbI.toNat) && decide (l.lsbQ.toNat < l.msbQ.toNat) &&
    decide (l.msbI.toNat - l.lsbI.toNat = l.msbQ.toNat - l.lsbQ.toNat) &&
    decide (2 ≤ l.msbI.toNat - l.lsbI.toNat) && decide (l.msbI.toNat ≤ 31) && decide (l.msbQ.toNat ≤ 31)

/-- `W = msb_i - lsb_i - 1`, the formula as written (41_unpack.md R132, 90_conflicts.md C1). -/
def layoutWidth (l : Layout) : Nat := l.msbI.toNat - l.lsbI.toNat - 1

/-- `raw = (word >> lsb) & mask` with `mask = 2^W - 1` (41_unpack.md R132, R133). -/
def rawField (w : Word) (lsb width : Nat) : Nat := (w.toNat >>> lsb) &&& (2 ^ width - 1)

/-- `sext_W(v)`: `v - 2^W` if `v >= 2^(W-1)`, and `v` otherwise (00_scope.md R9). -/
def sext (width v : Nat) : Int := if 2 ^ (width - 1) ≤ v then (v : Int) - 2 ^ width else v

/-- The word a field of `w` unpacks to, `u32(sext_W(raw))` (41_unpack.md R134). -/
def unpackField (w : Word) (lsb width : Nat) : Word := BitVec.ofInt 32 (sext width (rawField w lsb width))

/-- The I value of a word (41_unpack.md R130). -/
def unpackI (l : Layout) (w : Word) : Word := unpackField w l.lsbI.toNat (layoutWidth l)

/-- The Q value of a word; its width is the I range's (41_unpack.md R130, R132). -/
def unpackQ (l : Layout) (w : Word) : Word := unpackField w l.lsbQ.toNat (layoutWidth l)

/-- The word that encodes the signed pair `(a, b)` for a layout (41_unpack.md R139). -/
def packPair (l : Layout) (a b : Int) : Word :=
  BitVec.ofNat 32 ((a % 2 ^ layoutWidth l).toNat <<< l.lsbI.toNat ||| (b % 2 ^ layoutWidth l).toNat <<< l.lsbQ.toNat)

/-! ## The analyzer's operands -/

/-- The exact values of the analyzer's parameters (42_analyze.md R150). -/
structure Params where
  fs : Rat
  cf : Rat
  bw : Rat
  th : Rat
  deriving DecidableEq, Repr

/-- `legal_params` and the values of legal parameters: `FS` finite and `> 0`, `CF` finite, `BW` finite and `>= 0`,
`TH` finite; none when any of them is illegal (42_analyze.md R158). -/
def Snapshot.params (S : Snapshot) : Option Params :=
  match binary64Value S.fs, binary64Value S.cf, binary64Value S.bw, binary64Value S.th with
  | some fs, some cf, some bw, some th =>
    if 0 < fs ∧ 0 ≤ bw then some { fs := fs, cf := cf, bw := bw, th := th } else none
  | _, _, _, _ => none

/-- A raw 32-bit two's-complement value divided by `2^(W-1)` (41_unpack.md R135). -/
def normalize (width : Nat) (raw : Word) : Rat := (raw.toInt : Rat) / ((2 ^ (width - 1) : Nat) : Rat)

/-- The samples `x[0 .. N-1]`, the I value first (42_analyze.md R159). -/
def Memory.samples (m : Memory) (count width : Nat) : List (Rat × Rat) :=
  (List.range count).map fun n => (normalize width (m.readWord (iqiAddr n)), normalize width (m.readWord (iqqAddr n)))

/-- The input of `NUMERICS` that a command with operands `S` and parameters `p` analyzes (42_analyze.md R150, R172). -/
def analyzeInput (m : Memory) (S : Snapshot) (p : Params) : AnalyzeInput where
  samples := m.samples S.nsamp.toNat S.sampleWidth.toNat
  fs := p.fs
  cf := p.cf
  bw := p.bw
  th := p.th

end Sys2Proof.Machine
end

