-- ==== Sys2Proof/Machine/Bus.lean ====
section
/-!
DEFINITION. The host's accesses: reading and writing the registers and buffers through the aperture (20_memory.md R62,
R63), and what a running command makes UNSPECIFIED or refused (20_memory.md R71, 70_reset_and_hazards.md R217).
-/
namespace Sys2Proof.Machine

/-! ## Registers -/

/-- The 32-bit value of a register, reserved bits 0 (20_memory.md R62, 10_state.md R47); `CMD` reads 0 (R22). -/
def State.readReg (s : State) : RegName → Word
  | .id => Config.idWord
  | .cmd => 0#32
  | .status => s.status
  | .base => s.base
  | .endAddr => s.endAddr
  | .len => s.len.setWidth 32
  | .layout => s.layout
  | .nsamp => s.nsamp.setWidth 32
  | .sampleWidth => s.sampleWidth.setWidth 32
  | .lineAddr => s.lineAddr
  | .lineW0 => s.lineW0
  | .lineW1 => s.lineW1
  | .lineW2 => s.lineW2
  | .lineW3 => s.lineW3
  | .fsLo => loHalf s.fs
  | .fsHi => hiHalf s.fs
  | .cfLo => loHalf s.cf
  | .cfHi => hiHalf s.cf
  | .bwLo => loHalf s.bw
  | .bwHi => hiHalf s.bw
  | .thLo => loHalf s.th
  | .thHi => hiHalf s.th
  | .sigLo => loHalf s.sigDb
  | .sigHi => hiHalf s.sigDb
  | .dcLo => loHalf s.dcDb
  | .dcHi => hiHalf s.dcDb
  | .toneLo => loHalf s.toneDb
  | .toneHi => hiHalf s.toneDb
  | .nband => s.nband
  | .ntone => s.ntone
  | .nspec => s.nspec.setWidth 32

/-- `LEN <- v` when `v <= 65536`, unchanged otherwise: write-any, read-legal (10_state.md R26). -/
def State.writeLen (s : State) (v : Word) : State :=
  if v.toNat ≤ Config.capacity then { s with len := v.setWidth 17 } else s

/-- A host write of a register: `CMD` issues a command, a read-write register stores the word, and a read-only one
ignores it (20_memory.md R63, 10_state.md R47). -/
def State.writeReg (s : State) (r : RegName) (v : Word) : State :=
  match r with
  | .id => s
  | .cmd => s.issue v
  | .status => s
  | .base => { s with base := v }
  | .endAddr => { s with endAddr := v }
  | .len => s.writeLen v
  | .layout => { s with layout := v }
  | .nsamp => s
  | .sampleWidth => s
  | .lineAddr => { s with lineAddr := v }
  | .lineW0 => { s with lineW0 := v }
  | .lineW1 => { s with lineW1 := v }
  | .lineW2 => { s with lineW2 := v }
  | .lineW3 => { s with lineW3 := v }
  | .fsLo => { s with fs := setLo s.fs v }
  | .fsHi => { s with fs := setHi s.fs v }
  | .cfLo => { s with cf := setLo s.cf v }
  | .cfHi => { s with cf := setHi s.cf v }
  | .bwLo => { s with bw := setLo s.bw v }
  | .bwHi => { s with bw := setHi s.bw v }
  | .thLo => { s with th := setLo s.th v }
  | .thHi => { s with th := setHi s.th v }
  | .sigLo => s
  | .sigHi => s
  | .dcLo => s
  | .dcHi => s
  | .toneLo => s
  | .toneHi => s
  | .nband => s
  | .ntone => s
  | .nspec => s

/-! ## Targets of the address map -/

/-- The value at a target, with no command interfering: a register, a buffer element, or 0 where nothing is mapped;
bits 31:2 of a `CLASS` element read 0 (20_memory.md R62, R65, 10_state.md R44). -/
def State.readTarget (s : State) : Target → Word
  | .reg r => s.readReg r
  | .word n => s.mem.readWord (wordAddr n)
  | .iqi n => s.mem.readWord (iqiAddr n)
  | .iqq n => s.mem.readWord (iqqAddr n)
  | .specLo k => s.mem.readWord (specAddr k)
  | .specHi k => s.mem.readWord (specAddr k + 4)
  | .cls k => s.mem.readWord (classAddr k) &&& 3#32
  | .unmapped => 0#32

/-- The effect of a write on a target: only registers and `WORD` can be written (20_memory.md R63, R65). -/
def State.writeTarget (s : State) (t : Target) (v : Word) : State :=
  match t with
  | .reg r => s.writeReg r v
  | .word n => { s with mem := s.mem.writeWord (wordAddr n) v }
  | .iqi _ => s
  | .iqq _ => s
  | .specLo _ => s
  | .specHi _ => s
  | .cls _ => s
  | .unmapped => s

/-! ## What a running command interferes with -/

/-- The command being run and its snapshot; none while idle or while a reserved word runs. -/
def State.runningCommand (s : State) : Option (Instr × Snapshot) :=
  match s.seq with
  | .idle => none
  | .run r =>
    match decode r.word with
    | .ok i => some (i, r.snap)
    | .error _ => none

/-- Does command `i` with operands `S` write target `t`: the column "state written" of 30_encoding.md R82, but for
`STATUS` (log 5)? -/
def writtenBy (i : Instr) (S : Snapshot) (t : Target) : Bool :=
  match i with
  | .nop => false
  | .clear => t == .reg .len || t == .reg .nsamp
  | .framePush =>
    match t with
    | .reg r => r == .len
    | .word n => decide (S.len.toNat ≤ n ∧ n < S.len.toNat + 4)
    | _ => false
  | .reorder =>
    match t with
    | .word n => decide (n < S.len.toNat)
    | _ => false
  | .unpack =>
    match t with
    | .reg r => r == .nsamp || r == .sampleWidth
    | .iqi _ => true
    | .iqq _ => true
    | _ => false
  | .analyze =>
    match t with
    | .reg r => [RegName.nspec, .sigLo, .sigHi, .dcLo, .dcHi, .toneLo, .toneHi, .nband, .ntone].contains r
    | .specLo _ => true
    | .specHi _ => true
    | .cls _ => true
    | _ => false

/-- Is `STATUS.FRAME_BAD` UNSPECIFIED while `i` runs (70_reset_and_hazards.md R217(a))? -/
def frameBadOpen : Instr → Bool
  | .nop => false
  | .clear => true
  | .framePush => true
  | .reorder => false
  | .unpack => false
  | .analyze => false

/-- Is `STATUS.TONE_VALID` UNSPECIFIED while `i` runs (70_reset_and_hazards.md R217(a))? -/
def toneValidOpen : Instr → Bool
  | .nop => false
  | .clear => false
  | .framePush => false
  | .reorder => false
  | .unpack => false
  | .analyze => true

/-- `STATUS` as it reads while command `i` runs: the defined fields, and a free bit for the UNSPECIFIED one
(70_reset_and_hazards.md R217(a), 90_conflicts.md C11). DESIGN CHOICE (log 19): while `CLEAR` runs, an `OVERRUN` set before
its issue reads 1 until the completion; 40_frame.md R102 clears it within the run and no rule says when. -/
def State.busyStatus (s : State) (i : Instr) : Word :=
  let open' := (Config.freeBits s.draws 1).getLsbD 0
  statusOf s.busy s.done (if frameBadOpen i then open' else s.frameBad) s.overrun
    (if toneValidOpen i then open' else s.toneValid) s.err

/-- Is a host write of target `t` while command `i` runs one the model refuses: `WORD` while `FRAME_PUSH`, `REORDER`
or `UNPACK` runs, `LEN` while `CLEAR` or `FRAME_PUSH` runs (70_reset_and_hazards.md R217(b); log 10)? -/
def writeHazard (i : Instr) (t : Target) : Bool :=
  match t with
  | .word _ => i == .framePush || i == .reorder || i == .unpack
  | .reg r => r == .len && (i == .clear || i == .framePush)
  | _ => false

/-! ## The host's accesses -/

/-- The value of a read goes to `rdata`; a read changes no other state of the SAB (20_memory.md R62). -/
def State.returnData (s : State) (v : Word) : State := { s with rdata := v }

/-- The value of a read that draws a free value. -/
def State.returnDrawn (s : State) (v : Word) : State := { s with rdata := v, draws := s.draws + 1 }

/-- `MemRead` of a target (20_memory.md R62): while a command runs, what it writes reads as a free value, and `STATUS`
reads its defined fields (20_memory.md R71(c), 70_reset_and_hazards.md R217(a); log 5). -/
def hostRead (t : Target) (s : State) : State :=
  match s.runningCommand with
  | none => s.returnData (s.readTarget t)
  | some (i, S) =>
    if t = .reg .status then s.returnDrawn (s.busyStatus i)
    else if writtenBy i S t then s.returnDrawn (Config.freeBits s.draws 32)
    else s.returnData (s.readTarget t)

/-- `MemWrite` of a target (20_memory.md R63), refused where the running command makes it a hazard
(70_reset_and_hazards.md R217(b)). -/
def hostWrite (t : Target) (v : Word) (s : State) : Host.Outcome State Fault Refusal :=
  match s.runningCommand with
  | none => .next (s.writeTarget t v)
  | some (i, _) => if writeHazard i t then .refused .busyWriteHazard else .next (s.writeTarget t v)

/-- One host access: a whole aligned word, or refused (20_memory.md R61, R67; log 10). -/
def hostAccess (a : Access) (s : State) : Host.Outcome State Fault Refusal :=
  if a.wf then
    match a with
    | .read addr _ => .next (hostRead (targetAt (apertureOffset addr)) s)
    | .write addr _ v => hostWrite (targetAt (apertureOffset addr)) v s
  else .refused .malformedAccess

end Sys2Proof.Machine
end

