-- ==== Sys2Proof/Machine/Analyze.lean ====
section
/-!
DEFINITION. The spectral analyzer's command `ANALYZE` (42_analyze.md). What R172 item 1 makes exact (the errors
`EMPTY`, `PARAM` and `EMPTY_BAND`, the band, `NBAND`, `NSPEC`) is computed here; everything else is the outcome of
`Config.numerics` (log 7).
-/
namespace Sys2Proof.Machine

/-- `CLASS[k]`: bit 0 `INBAND`, bit 1 `TONE`, which implies `INBAND` (42_analyze.md R166). -/
def classWord (inp : AnalyzeInput) (o : AnalyzeOutcome) (k : Nat) : Word :=
  if inp.inBand k then (if o.tone k then 3#32 else 1#32) else 0#32

/-- `SPEC[k] <- P[k]` and `CLASS[k]` for every `k < N`; elements `k >= N` are not written (42_analyze.md R170). -/
def Memory.writeSpectrum (m : Memory) (inp : AnalyzeInput) (o : AnalyzeOutcome) : Memory :=
  (m.writeDWords (specAddr 0) ((List.range inp.length).map o.spec)).writeWords (classAddr 0)
    ((List.range inp.length).map (classWord inp o))

/-- The results of a successful analysis (42_analyze.md R168, R170); with no tone, `TONE_DB` is `+0.0` (log 8). -/
def State.writeResults (s : State) (inp : AnalyzeInput) (o : AnalyzeOutcome) : State :=
  { s with
    mem := s.mem.writeSpectrum inp o
    nspec := BitVec.ofNat 17 inp.length
    nband := BitVec.ofNat 32 inp.band.length
    ntone := BitVec.ofNat 32 (inp.tones o).length
    toneValid := !(inp.tones o).isEmpty
    dcDb := o.dcDb
    sigDb := o.sigDb
    toneDb := if (inp.tones o).isEmpty then 0x0000000000000000#64 else o.toneDb }

/-- How an analysis of a non-empty band ends: with its results, or with `LOG_DOMAIN` and UNSPECIFIED results
(42_analyze.md R169 to R171). -/
def State.finishAnalysis (s : State) (inp : AnalyzeInput) (o : AnalyzeOutcome) : State :=
  (if o.logDomain then s.forgetResults else s.writeResults inp o).completeAnalysis
    (if o.logDomain then .logDomain else .ok)

/-- `ANALYZE` (42_analyze.md R150), its checks in the order of R154. -/
def execAnalyze (s : State) : Host.Outcome State Fault Refusal :=
  let S := s.operands
  if S.nsamp.toNat = 0 then .next (s.completeAnalysis .empty)
  else
    match S.params with
    | none => .next (s.completeAnalysis .param)
    | some p =>
      let inp := analyzeInput s.mem S p
      if inp.band = [] then .next (s.forgetResults.completeAnalysis .emptyBand)
      else .next (s.finishAnalysis inp (Config.numerics.outcome inp))

end Sys2Proof.Machine
end

