-- ==== Sys2Proof/Machine/Frame.lean ====
section
/-!
DEFINITION. The frame unit's commands `NOP`, `CLEAR`, `FRAME_PUSH` and `REORDER` (40_frame.md), and the completion
of a word that is no command (30_encoding.md R81).
-/
namespace Sys2Proof.Machine

/-- A reserved command word completes with `BAD_CMD` and changes nothing but `STATUS` (30_encoding.md R81, R83). -/
def badCommand (s : State) : Host.Outcome State Fault Refusal := .next (s.complete .badCmd)

/-- `NOP` (40_frame.md R100). -/
def execNop (s : State) : Host.Outcome State Fault Refusal := .next (s.complete .ok)

/-- The frame state `CLEAR` leaves: `LEN`, `NSAMP`, `FRAME_BAD` at 0, and `OVERRUN` 1 only for a word dropped while
this `CLEAR` runs (40_frame.md R102, 90_conflicts.md C12; log 9). All of it at the completion, so that an older `OVERRUN`
reads 1 until then (DESIGN CHOICE, log 19). -/
def State.clearFrame (s : State) : State :=
  { s with len := 0#17, nsamp := 0#17, frameBad := false, overrun := s.droppedInRun }

/-- `CLEAR` (40_frame.md R102). -/
def execClear (s : State) : Host.Outcome State Fault Refusal := .next (s.clearFrame.complete .ok)

/-- The staged line appended at `WORD[LEN .. LEN+3]` (40_frame.md R106, R109). -/
def State.appendLine (s : State) (S : Snapshot) : State :=
  { s with mem := s.mem.writeWords (wordAddr S.len.toNat) S.lineWords, len := S.len + 4#17 }

/-- `FRAME_PUSH` (40_frame.md R106): the frame already bad, then the offset check, then the capacity check. -/
def execFramePush (s : State) : Host.Outcome State Fault Refusal :=
  let S := s.operands
  if S.frameBad then .next (s.complete .noncontig)
  else if S.lineOffset.toNat ≠ 4 * S.len.toNat then .next (s.markFrameBad.complete .noncontig)
  else if Config.capacity < S.len.toNat + 4 then .next (s.markFrameBad.complete .overflow)
  else .next ((s.appendLine S).complete .ok)

/-- `xseq[k+1:] ++ xseq[0:k+1]`: the part after the wrap point, then the part up to and including it
(40_frame.md R114). -/
def rotateFrame (xseq : List Word) (k : Nat) : List Word := xseq.drop (k + 1) ++ xseq.take (k + 1)

/-- `WORD[0 .. L-1]`, all read before any is written, replaced by its rotation at `k` (40_frame.md R112). -/
def State.rotateWords (s : State) (L k : Nat) : State :=
  { s with mem := s.mem.writeWords (wordAddr 0) (rotateFrame (s.mem.readWords (wordAddr 0) L) k) }

/-- `REORDER` (40_frame.md R112): the frame bad, then the sentinel, then the range check. -/
def execReorder (s : State) : Host.Outcome State Fault Refusal :=
  let S := s.operands
  if S.frameBad then .next (s.complete .noncontig)
  else if S.endAddr = Config.sentinel then .next (s.complete .incomplete)
  else if S.len.toNat ≤ S.endAddr.toNat then .next (s.complete .range)
  else .next ((s.rotateWords S.len.toNat S.endAddr.toNat).complete .ok)

end Sys2Proof.Machine
end

