-- ==== Sys2Proof/Machine/Unpack.lean ====
section
/-!
DEFINITION. The sample unpacker's command `UNPACK` (41_unpack.md).
-/
namespace Sys2Proof.Machine

/-- Both fields of `WORD[0 .. L-1]` stored in `IQI[0 .. L-1]` and `IQQ[0 .. L-1]`, with `NSAMP` and `SAMPLE_WIDTH`
(41_unpack.md R130). -/
def State.unpackWords (s : State) (S : Snapshot) : State :=
  let l := layoutOf S.layout
  let ws := s.mem.readWords (wordAddr 0) S.len.toNat
  { s with
    mem := (s.mem.writeWords (iqiAddr 0) (ws.map (unpackI l))).writeWords (iqqAddr 0) (ws.map (unpackQ l))
    nsamp := S.len
    sampleWidth := BitVec.ofNat 5 (layoutWidth l) }

/-- `UNPACK` (41_unpack.md R130): the frame bad, then the layout's legality. -/
def execUnpack (s : State) : Host.Outcome State Fault Refusal :=
  let S := s.operands
  if S.frameBad then .next (s.complete .noncontig)
  else if layoutLegal (layoutOf S.layout) = false then .next (s.complete .format)
  else .next ((s.unpackWords S).complete .ok)

end Sys2Proof.Machine
end

