-- ==== Sys2Proof/Machine/Dispatch.lean ====
section
/-!
DEFINITION. One arm per command (30_encoding.md R82).
-/
namespace Sys2Proof.Machine

-- the meaning of a command, performed by the sequencer from issue to completion (60_exceptions.md R200)
def exec (i : Instr) (s : State) : Host.Outcome State Fault Refusal :=
  match i with
  | .nop => Sys2Proof.Machine.execNop s
  | .clear => Sys2Proof.Machine.execClear s
  | .framePush => Sys2Proof.Machine.execFramePush s
  | .reorder => Sys2Proof.Machine.execReorder s
  | .unpack => Sys2Proof.Machine.execUnpack s
  | .analyze => Sys2Proof.Machine.execAnalyze s

end Sys2Proof.Machine
end

