-- ==== Sys2Proof/Machine/Sequencer.lean ====
section
/-!
DEFINITION. The sequencer's one step: the command word it holds is decoded and performed to its completion
(60_exceptions.md R200, 30_encoding.md R81).
-/
namespace Sys2Proof.Machine

/-- Command word `c` is decoded and performed; a reserved word completes with `BAD_CMD` (30_encoding.md R81). -/
def runCommand (c : Word) (s : State) : Host.Outcome State Fault Refusal :=
  match decode c with
  | .ok i => exec i s
  | .error _ => badCommand s

/-- The sequencer's turn: enabled when `SEQ = RUN(c, S)`; an idle sequencer waits for the host (60_exceptions.md
R200, 70_reset_and_hazards.md R212). -/
def sequencerTurn (s : State) : Host.Outcome State Fault Refusal :=
  match s.seq with
  | .run r => runCommand r.word s
  | .idle => .next s

/-- The state in which the sequencer has just accepted command word `c` and takes the next turn: the issue of
60_exceptions.md R190, the sequencer's turn put before every pending input (log 3). -/
def State.fetching (s : State) (c : Word) : State := { s.startRun c with inputs := .turn :: s.inputs }

end Sys2Proof.Machine
end

