-- ==== Sys2Proof/Machine/Inputs.lean ====
section
/-!
DEFINITION. The effect of one outside event (60_exceptions.md R200).
-/
namespace Sys2Proof.Machine

/-- A host access, the sequencer's turn, the platform's reset (70_reset_and_hazards.md R211), or an access of a second
master, which is refused (20_memory.md R70; log 10). -/
def handleInput (e : Input) (s : State) : Host.Outcome State Fault Refusal :=
  match e with
  | .access a => hostAccess a s
  | .turn => sequencerTurn s
  | .reset => .next s.hardReset
  | .otherMaster => .refused .otherMaster

end Sys2Proof.Machine
end

