-- ==== Sys2Proof/Machine/Step.lean ====
section
/-!
DEFINITION. One step of the machine: the next outside event, or the sequencer's turn when none is pending
(60_exceptions.md R200, 20_memory.md R70; log 2).
-/
namespace Sys2Proof.Machine

/-- One step: the next pending input, taken off the list; with none pending, the sequencer's turn, so that a running
command always completes (70_reset_and_hazards.md R215). -/
def step (s : State) : Host.Outcome State Fault Refusal :=
  match s.inputs with
  | [] => sequencerTurn s
  | e :: rest => handleInput e { s with inputs := rest }

/-- A number of steps, stopping at the first that gives no next state (60_exceptions.md R200). -/
def steps : Nat → State → Host.Outcome State Fault Refusal
  | 0, s => .next s
  | k + 1, s =>
    match step s with
    | .next t => steps k t
    | .fault f => .fault f
    | .refused r => .refused r

/-- The state whose next step runs the command word in the low `nbits` bits of `w` (log 3). -/
def State.withFetchWord (s : State) (nbits w : Nat) : State := s.fetching (tableWord nbits w)

end Sys2Proof.Machine
end

