-- ==== Sys2Proof/Machine/Assembler.lean ====
section
/-!
DEFINITION. The spec's notation for host programs, as the bus accesses it stands for (30_encoding.md R89, R90). An
address is written as its aperture offset (20_memory.md R60, log 11).
-/
namespace Sys2Proof.Machine

/-! ## The machine operations (30_encoding.md R89) -/

/-- `MemWrite(offset, 4, v)`. -/
def busWrite (offset : Nat) (v : Word) : Input := .access (.write (BitVec.ofNat 32 offset) .bits32 v)

/-- `MemRead(offset, 4)`. -/
def busRead (offset : Nat) : Input := .access (.read (BitVec.ofNat 32 offset) .bits32)

/-- `wr NAME, v`. -/
def wr (r : RegName) (v : Word) : Input := busWrite (regOffset r) v

/-- `rd NAME`. -/
def rd (r : RegName) : Input := busRead (regOffset r)

/-- `wr WORD[n], v`. -/
def wrWord (n : Nat) (v : Word) : Input := busWrite (wordAddr n) v

/-- `rd WORD[n]`. -/
def rdWord (n : Nat) : Input := busRead (wordAddr n)

/-- `rd IQI[n]`. -/
def rdIqi (n : Nat) : Input := busRead (iqiAddr n)

/-- `rd IQQ[n]`. -/
def rdIqq (n : Nat) : Input := busRead (iqqAddr n)

/-- `rd CLASS[k]`. -/
def rdClass (k : Nat) : Input := busRead (classAddr k)

/-- A command by its mnemonic: `wr CMD, <command word>`. -/
def issueOf (i : Instr) : Input := wr .cmd (encode i)

/-! ## Pseudo-instructions (30_encoding.md R90) -/

/-- The 64-bit registers the host writes. -/
inductive Config64 where
  | fs | cf | bw | th
  deriving DecidableEq, Repr

/-- The 64-bit results the host reads. -/
inductive Result64 where
  | sig | dc | tone
  deriving DecidableEq, Repr

/-- `X_LO` of a configuration register. -/
def configLo : Config64 → RegName
  | .fs => .fsLo
  | .cf => .cfLo
  | .bw => .bwLo
  | .th => .thLo

/-- `X_HI` of a configuration register. -/
def configHi : Config64 → RegName
  | .fs => .fsHi
  | .cf => .cfHi
  | .bw => .bwHi
  | .th => .thHi

/-- `X_LO` of a result register. -/
def resultLo : Result64 → RegName
  | .sig => .sigLo
  | .dc => .dcLo
  | .tone => .toneLo

/-- `X_HI` of a result register. -/
def resultHi : Result64 → RegName
  | .sig => .sigHi
  | .dc => .dcHi
  | .tone => .toneHi

/-- `wr64 X, d`, with `d` already encoded. -/
def wr64 (x : Config64) (d : DWord) : List Input := [wr (configLo x) (loHalf d), wr (configHi x) (hiHalf d)]

/-- `rd64 X` of a configuration register. -/
def rdConfig64 (x : Config64) : List Input := [rd (configLo x), rd (configHi x)]

/-- `rd64 X` of a result register. -/
def rdResult64 (x : Result64) : List Input := [rd (resultLo x), rd (resultHi x)]

/-- `rd64 SPEC[k]`. -/
def rdSpec64 (k : Nat) : List Input := [busRead (specAddr k), busRead (specAddr k + 4)]

/-- `wait`: some number of reads of `STATUS` while the command runs, the sequencer's turn, and the read that sees
`BUSY = 0` (log 2). -/
def waitFor (polls : Nat) : List Input := List.replicate polls (rd .status) ++ [.turn, rd .status]

/-- `run OP`. -/
def runOp (i : Instr) (polls : Nat) : List Input := issueOf i :: waitFor polls

/-- The five staging writes of a line. -/
def stageInputs (l : Line) : List Input :=
  [wr .lineAddr l.addr, wr .lineW0 l.w0, wr .lineW1 l.w1, wr .lineW2 l.w2, wr .lineW3 l.w3]

/-- `push a, w0, w1, w2, w3`. -/
def pushInputs (l : Line) (polls : Nat) : List Input := stageInputs l ++ runOp .framePush polls

/-- `layout a:b, c:d`. -/
def layoutInput (l : Layout) : Input := wr .layout (layoutWord l)

/-! ## The staged line -/

/-- The staging registers after the host has written line `l` (10_state.md R30). -/
def State.stageLine (s : State) (l : Line) : State :=
  { s with lineAddr := l.addr, lineW0 := l.w0, lineW1 := l.w1, lineW2 := l.w2, lineW3 := l.w3 }

end Sys2Proof.Machine
end

