-- ==== Sys2Proof/Safety.lean ====
section
/-!
DEFINITION. What a well-formed state is, what the host owes the SAB (60_exceptions.md R201), when the results of an
analysis are meaningful (70_reset_and_hazards.md R220; log 18), and the machine that faults where the spec calls the
behaviour out of contract (93_implementation_defined.md rows 3 and 4; log 1).
-/
namespace Sys2Proof.Safety

open Sys2Proof.Machine

/-! ## The invariant -/

/-- A 32-bit two's-complement word lies in `-2^(W-1) .. 2^(W-1)-1` (10_state.md R41). -/
def InWidth (width : Nat) (w : Word) : Prop := -(2 : Int) ^ (width - 1) ≤ w.toInt ∧ w.toInt < (2 : Int) ^ (width - 1)

/-- What holds of a command in progress: its snapshot agrees with the registers no host write can change, and the
`STATUS` fields read as a run's (10_state.md R23, R45; 40_frame.md R102). -/
structure RunInv (s : State) (r : Run) : Prop where
  len_le : r.snap.len.toNat ≤ Config.capacity
  nsamp_eq : r.snap.nsamp = s.nsamp
  sampleWidth_eq : r.snap.sampleWidth = s.sampleWidth
  frameBad_eq : r.snap.frameBad = s.frameBad
  done_eq : s.done = false
  err_eq : s.err = .ok
  overrun_of_dropped : r.dropped = true → s.overrun = true

/-- What the results of an `ANALYZE` that completed with `OK` satisfy as long as they stand: `NSPEC` from 1 to 65536,
`NTONE <= NBAND <= NSPEC`, `TONE_VALID` 1 exactly when there is a tone, and `TONE_DB` `+0.0` without one (42_analyze.md
R168, R170). -/
structure ResultsInv (s : State) : Prop where
  nspec_pos : 1 ≤ s.nspec.toNat
  nspec_le : s.nspec.toNat ≤ Config.capacity
  nband_le : s.nband.toNat ≤ s.nspec.toNat
  ntone_le : s.ntone.toNat ≤ s.nband.toNat
  toneValid_iff : s.toneValid = true ↔ s.ntone.toNat ≠ 0
  toneDb_eq : s.toneValid = false → s.toneDb = 0x0000000000000000#64

/-- What every state the machine can reach satisfies: `LEN` and `NSAMP` within capacity (10_state.md R26, R28),
`SAMPLE_WIDTH` at most 30 and at least 1 when there are samples (R29, 42_analyze.md R152), the memory in its canonical
form, every valid sample in the range of the width (10_state.md R41, R42), the facts about a run, and those about the
results after an `ANALYZE` that completed with `OK` (70_reset_and_hazards.md R220). -/
structure Inv (s : State) : Prop where
  len_le : s.len.toNat ≤ Config.capacity
  nsamp_le : s.nsamp.toNat ≤ Config.capacity
  width_le : s.sampleWidth.toNat ≤ 30
  width_pos : 0 < s.nsamp.toNat → 1 ≤ s.sampleWidth.toNat
  mem_wf : s.mem.wf = true
  iqi_range : ∀ n < s.nsamp.toNat, InWidth s.sampleWidth.toNat (s.mem.readWord (iqiAddr n))
  iqq_range : ∀ n < s.nsamp.toNat, InWidth s.sampleWidth.toNat (s.mem.readWord (iqqAddr n))
  run : ∀ r, s.seq = .run r → RunInv s r
  results : s.lastAnalysis = some .ok → ResultsInv s

/-! ## The host's duties -/

/-- Does the host keep its duties of 60_exceptions.md R201 with this input: a command only while idle, no hazardous
write, and no read of what the running command writes? -/
def dutiful (s : State) : Input → Bool
  | .access (.read addr size) =>
    (Access.read addr size).wf &&
      match s.runningCommand with
      | none => true
      | some (i, S) => !writtenBy i S (targetAt (apertureOffset addr))
  | .access (.write addr size v) =>
    (Access.write addr size v).wf &&
      !(s.busy && targetAt (apertureOffset addr) == .reg .cmd) &&
      match s.runningCommand with
      | none => true
      | some (i, _) => !writeHazard i (targetAt (apertureOffset addr))
  | .turn => true
  | .reset => true
  | .otherMaster => false

/-! ## The contract -/

/-- Is an `ANALYZE` in progress? -/
def analyzing (s : State) : Bool :=
  match s.runningCommand with
  | some (i, _) => i == .analyze
  | none => false

/-- Are the result registers and buffers meaningful: did the last `ANALYZE` complete with `OK`, no other being in
progress (70_reset_and_hazards.md R220; log 18)? -/
def resultsValid (s : State) : Bool := s.lastAnalysis == some .ok && !analyzing s

/-- Does this step give the sequencer its turn on a word it holds? -/
def sequencerRuns (s : State) : Bool :=
  s.busy &&
    match s.inputs with
    | [] => true
    | e :: _ => e == .turn

/-- The analysis of `inp` with outcome `o` is out of contract or too near it: some logarithm's argument, under the
classification made or under the reference's, is not above `N·TOL_P` (42_analyze.md R155, R172 item 4;
93_implementation_defined.md row 3). -/
def NearLogDomain (inp : AnalyzeInput) (o : AnalyzeOutcome) : Prop :=
  ∃ a ∈ inp.logArgsOf o.tone ++ inp.logArgsOf inp.referenceTone,
    a ≤ (inp.length : ℝ) * (Config.numerics.tolP : ℝ)

/-- The command in progress is an `ANALYZE` that passes its checks and whose analysis is out of contract or too near it,
whichever of `LOG_DOMAIN` and `OK` it reports (42_analyze.md R172 item 4). -/
def AnalyzesNearLogDomain (s : State) : Prop :=
  ∃ (r : Run) (p : Params), s.seq = .run r ∧ decode r.word = .ok .analyze ∧ r.snap.nsamp.toNat ≠ 0 ∧
    r.snap.params = some p ∧ (analyzeInput s.mem r.snap p).band ≠ [] ∧
    NearLogDomain (analyzeInput s.mem r.snap p) (Config.numerics.outcome (analyzeInput s.mem r.snap p))

open Classical in
/-- The fault the spec's contract assigns to the command in progress when it completes with code `e`, if any:
`EMPTY`, and `LOG_DOMAIN` together with every outcome near it (42_analyze.md R155, R172 item 4;
93_implementation_defined.md rows 3 and 4). -/
noncomputable def contractFault (s : State) (e : ErrCode) : Option Fault :=
  if e = .empty then some .emptyInput
  else if e = .logDomain ∨ AnalyzesNearLogDomain s then some .logDomain
  else none

/-- `step`, but stopping with a fault when the sequencer's turn completes a command out of contract
(93_implementation_defined.md rows 3 and 4; log 1). -/
noncomputable def contractStep (s : State) : Host.Outcome State Fault Refusal :=
  match step s with
  | .next t =>
    if sequencerRuns s then
      match contractFault s t.err with
      | some f => .fault f
      | none => .next t
    else .next t
  | .fault f => .fault f
  | .refused r => .refused r

end Sys2Proof.Safety
end

