-- ==== Sys2Proof/Certificates/Slice0/Obligations.lean ====
section
/-!
DEFINITION. The statements for the provers. Each is about the machine; the rules of spec/ it formalises stand in its
docstring. A next state is written as an update of the state before, so every field not named is unchanged.
-/

open Sys2Proof Sys2Proof.Machine Sys2Proof.Safety

namespace Sys2Proof.Statements

/-- `Bytes outside` a store: every byte below `lo` and from `hi` on reads as before. -/
def KeepsOutside (m m' : Memory) (lo hi : Nat) : Prop := ∀ x, x < lo ∨ hi ≤ x → m'.readByte x = m.readByte x

/-- The `W`-bit field of a word from bit `lsb` up, as a signed number (00_scope.md R9, 41_unpack.md R133, R134). -/
def signedField (w : Word) (lsb width : Nat) : Int :=
  if 2 ^ (width - 1) ≤ w.toNat / 2 ^ lsb % 2 ^ width then (w.toNat / 2 ^ lsb % 2 ^ width : Nat) - (2 : Int) ^ width
  else (w.toNat / 2 ^ lsb % 2 ^ width : Nat)

/-- The four conditions of a legal layout on the numbers `mi`, `li`, `mq`, `lq` (41_unpack.md R131). -/
def LegalRanges (mi li mq lq : Nat) : Prop :=
  (mi > li ∧ mq > lq) ∧ (mi : Int) - li = (mq : Int) - lq ∧ (mi : Int) - li ≥ 2 ∧ mi ≤ 31 ∧ mq ≤ 31

/-- `LAYOUT[31:24]` and its neighbours as numbers (30_encoding.md R85). -/
def layoutField (w : Word) (lsb : Nat) : Nat := w.toNat / 2 ^ lsb % 256

/-- What a host read of each register offset returns while no command runs (20_memory.md R64, 10_state.md R21 to
R39). -/
def registerValues (s : State) : List (Nat × Word) :=
  [(0x00, 0x47440007#32), (0x04, 0#32), (0x08, s.status), (0x0C, s.base), (0x10, s.endAddr), (0x14, s.len.setWidth 32),
    (0x18, s.layout), (0x1C, s.nsamp.setWidth 32), (0x20, s.sampleWidth.setWidth 32), (0x24, s.lineAddr),
    (0x28, s.lineW0), (0x2C, s.lineW1), (0x30, s.lineW2), (0x34, s.lineW3), (0x38, 0#32), (0x3C, 0#32),
    (0x40, s.fs.extractLsb' 0 32), (0x44, s.fs.extractLsb' 32 32), (0x48, s.cf.extractLsb' 0 32),
    (0x4C, s.cf.extractLsb' 32 32), (0x50, s.bw.extractLsb' 0 32), (0x54, s.bw.extractLsb' 32 32),
    (0x58, s.th.extractLsb' 0 32), (0x5C, s.th.extractLsb' 32 32), (0x60, s.sigDb.extractLsb' 0 32),
    (0x64, s.sigDb.extractLsb' 32 32), (0x68, s.dcDb.extractLsb' 0 32), (0x6C, s.dcDb.extractLsb' 32 32),
    (0x70, s.toneDb.extractLsb' 0 32), (0x74, s.toneDb.extractLsb' 32 32), (0x78, s.nband), (0x7C, s.ntone),
    (0x80, s.nspec.setWidth 32)]

/-- What a host write of `v` at each read-write register offset makes of the state, `CMD` apart (20_memory.md R63, R64;
10_state.md R26, R46). -/
def registerWrites (s : State) (v : Word) : List (Nat × State) :=
  [(0x0C, { s with base := v }), (0x10, { s with endAddr := v }),
    (0x14, if v.toNat ≤ 65536 then { s with len := v.setWidth 17 } else s), (0x18, { s with layout := v }),
    (0x24, { s with lineAddr := v }), (0x28, { s with lineW0 := v }), (0x2C, { s with lineW1 := v }),
    (0x30, { s with lineW2 := v }), (0x34, { s with lineW3 := v }),
    (0x40, { s with fs := s.fs.extractLsb' 32 32 ++ v }), (0x44, { s with fs := v ++ s.fs.extractLsb' 0 32 }),
    (0x48, { s with cf := s.cf.extractLsb' 32 32 ++ v }), (0x4C, { s with cf := v ++ s.cf.extractLsb' 0 32 }),
    (0x50, { s with bw := s.bw.extractLsb' 32 32 ++ v }), (0x54, { s with bw := v ++ s.bw.extractLsb' 0 32 }),
    (0x58, { s with th := s.th.extractLsb' 32 32 ++ v }), (0x5C, { s with th := v ++ s.th.extractLsb' 0 32 })]

/-- The offsets a write does not change: read-only registers, the windows of `IQI`, `IQQ`, `SPEC` and `CLASS`, and the
reserved addresses (20_memory.md R63 to R65). -/
def IgnoresWrites (o : Nat) : Prop :=
  o = 0x00 ∨ o = 0x08 ∨ o = 0x1C ∨ o = 0x20 ∨ o = 0x38 ∨ o = 0x3C ∨ (0x60 ≤ o ∧ o < 0x40000) ∨ 0x80000 ≤ o

/-- The host's live registers replaced, as host writes during a run can replace them. -/
def rewriteRegisters (s v : State) : State :=
  { s with
    base := v.base, endAddr := v.endAddr, layout := v.layout, lineAddr := v.lineAddr, lineW0 := v.lineW0,
    lineW1 := v.lineW1, lineW2 := v.lineW2, lineW3 := v.lineW3, fs := v.fs, cf := v.cf, bw := v.bw, th := v.th }

/-- The aligned offsets of the aperture that word `w`, running with `LEN = L`, does not write, `STATUS` (0x08) apart: the
column "state written" of 30_encoding.md R82 read by addresses (20_memory.md R64). `CLEAR` writes `LEN` and `NSAMP`;
`FRAME_PUSH` writes `LEN` and `WORD[L .. L+3]`; `REORDER` writes `WORD[0 .. L-1]`; `UNPACK` writes `NSAMP`, `SAMPLE_WIDTH`, `IQI`
and `IQQ`; `ANALYZE` writes the registers 0x60 to 0x80, `SPEC` and `CLASS`; no other word writes any. -/
def UnwrittenOffset (w : Word) (L o : Nat) : Prop :=
  o ≠ 0x08 ∧ (w = 0x00000001#32 → o ≠ 0x14 ∧ o ≠ 0x1C) ∧
    (w = 0x00000002#32 → o ≠ 0x14 ∧ (o < 0x40000 + 4 * L ∨ 0x40000 + 4 * (L + 4) ≤ o ∨ 0x80000 ≤ o)) ∧
    (w = 0x00000003#32 → o < 0x40000 ∨ 0x40000 + 4 * L ≤ o ∨ 0x80000 ≤ o) ∧
    (w = 0x00000004#32 → o ≠ 0x1C ∧ o ≠ 0x20 ∧ (o < 0x80000 ∨ 0x100000 ≤ o)) ∧
    (w = 0x00000005#32 → (o < 0x60 ∨ 0x80 < o) ∧ (o < 0x100000 ∨ 0x1C0000 ≤ o))

/-- The result registers, `TONE_VALID`, every byte of `SPEC` and `CLASS`, and how the last `ANALYZE` completed (log 18) are
as before. -/
def KeepsResults (s t : State) : Prop :=
  t.sigDb = s.sigDb ∧ t.dcDb = s.dcDb ∧ t.toneDb = s.toneDb ∧ t.nband = s.nband ∧ t.ntone = s.ntone ∧
    t.nspec = s.nspec ∧ t.toneValid = s.toneValid ∧ t.lastAnalysis = s.lastAnalysis ∧
    ∀ x, 0x100000 ≤ x → t.mem.readByte x = s.mem.readByte x

/-- A change of the next state of an outcome. -/
def mapNext (f : State → State) : Host.Outcome State Fault Refusal → Host.Outcome State Fault Refusal
  | .next t => .next (f t)
  | .fault e => .fault e
  | .refused e => .refused e

/-- It is the sequencer's turn: no input is pending, or a turn is next (log 2). -/
def TurnNext (s : State) : Prop := s.inputs = [] ∨ ∃ rest, s.inputs = .turn :: rest

/-- This step is the sequencer's turn on command word `c`. -/
def WordRuns (c : Word) (s : State) (r : Run) : Prop := s.seq = .run r ∧ r.word = c ∧ TurnNext s

/-- The next input is the platform's reset. -/
def ResetNext (s : State) : Prop := ∃ rest, s.inputs = .reset :: rest

end Sys2Proof.Statements

open Sys2Proof.Statements

/-! ## Encoding -/

/-- Command words of the opcode map, and three reserved words, decode as 30_encoding.md R82 and R83 say. -/
def Obligations.OpcodeMapWordsDecode : Prop :=
  decode 0x00000000#32 = .ok .nop ∧ decode 0x00000001#32 = .ok .clear ∧ decode 0x00000002#32 = .ok .framePush ∧
    decode 0x00000003#32 = .ok .reorder ∧ decode 0x00000004#32 = .ok .unpack ∧ decode 0x00000005#32 = .ok .analyze ∧
    decode 0x00000006#32 = .error (.reservedOpcode 6#8) ∧ decode 0x00000100#32 = .error .reservedBits ∧
    decode 0xFFFFFFFF#32 = .error .reservedBits

/-- Of all 2^32 words, exactly the encoding of a command decodes to it (30_encoding.md R80 to R84). -/
def Obligations.OnlyItsEncodingDecodes : Prop := ∀ (c : Word) (i : Instr), decode c = .ok i ↔ c = encode i

/-- Decoding of an accepted command word is total and as 30_encoding.md R81 lists it; a `BAD_CMD` completion changes
nothing but `STATUS`. -/
def Obligations.CommandWordsRunByOpcode : Prop :=
  ∀ (c : Word) (s : State),
    (c.extractLsb' 8 24 ≠ 0#24 → runCommand c s = .next { s with err := .badCmd, done := true, seq := .idle }) ∧
      (c.extractLsb' 8 24 = 0#24 →
        (c.extractLsb' 0 8 = 0x00#8 → runCommand c s = exec .nop s) ∧
          (c.extractLsb' 0 8 = 0x01#8 → runCommand c s = exec .clear s) ∧
          (c.extractLsb' 0 8 = 0x02#8 → runCommand c s = exec .framePush s) ∧
          (c.extractLsb' 0 8 = 0x03#8 → runCommand c s = exec .reorder s) ∧
          (c.extractLsb' 0 8 = 0x04#8 → runCommand c s = exec .unpack s) ∧
          (c.extractLsb' 0 8 = 0x05#8 → runCommand c s = exec .analyze s) ∧
          (6 ≤ (c.extractLsb' 0 8).toNat →
            runCommand c s = .next { s with err := .badCmd, done := true, seq := .idle }))

/-! ## Issue, running and completion -/

/-- When the sequencer holds a word that decodes to a well-formed command and takes its turn, the step is that command's
meaning; a pending `turn` is taken off the inputs (60_exceptions.md R200; log 2). -/
def Obligations.StepRunsDecodedInstruction : Prop :=
  ∀ (s : State) (r : Run) (i : Instr), s.seq = .run r → decode r.word = .ok i → i.wf = true →
    (s.inputs = [] → step s = exec i s) ∧
      ∀ rest, s.inputs = .turn :: rest → step s = exec i { s with inputs := rest }

/-- The model's own: the state `withFetchWord` makes runs that command next, as a command just accepted (log 3). -/
def Obligations.FetchWordRunsItsCommand : Prop :=
  ∀ (s : State) (i : Instr), step (s.withFetchWord 32 (encode i).toNat) = exec i (s.startRun (encode i))

/-- A host write of `CMD`: accepted while idle, with the snapshot of 10_state.md R45; dropped with `OVERRUN` set while a
command runs (60_exceptions.md R190). That the run then has `dropped` 1, the flag by which `CLEAR` remembers it, is the
model's own (log 9). -/
def Obligations.CommandWriteIssuesOrIsDropped : Prop :=
  ∀ (s : State) (addr c : Word) (rest : List Input),
    s.inputs = .access (.write addr .bits32 c) :: rest → addr.toNat % 2 ^ 21 = 4 →
      (s.seq = .idle →
        step s = .next { s with
          done := false, err := .ok, inputs := rest
          seq := .run { word := c, dropped := false, snap :=
            { base := s.base, len := s.len, endAddr := s.endAddr, layout := s.layout, nsamp := s.nsamp,
              sampleWidth := s.sampleWidth, lineAddr := s.lineAddr, lineW0 := s.lineW0, lineW1 := s.lineW1,
              lineW2 := s.lineW2, lineW3 := s.lineW3, fs := s.fs, cf := s.cf, bw := s.bw, th := s.th,
              frameBad := s.frameBad } } }) ∧
        ∀ r, s.seq = .run r →
          step s = .next { s with overrun := true, seq := .run { r with dropped := true }, inputs := rest }

/-- Every accepted word completes at the sequencer's turn: `BUSY` 0, `DONE` 1, and no register only the host writes is
changed (60_exceptions.md R191, 70_reset_and_hazards.md R215). -/
def Obligations.EveryRunCompletes : Prop :=
  ∀ (s : State) (r : Run), s.seq = .run r → s.inputs = [] →
    ∃ t, step s = .next t ∧ t.busy = false ∧ t.done = true ∧ t.inputs = [] ∧
      t.base = s.base ∧ t.endAddr = s.endAddr ∧ t.layout = s.layout ∧ t.lineAddr = s.lineAddr ∧ t.lineW0 = s.lineW0 ∧
      t.lineW1 = s.lineW1 ∧ t.lineW2 = s.lineW2 ∧ t.lineW3 = s.lineW3 ∧ t.fs = s.fs ∧ t.cf = s.cf ∧ t.bw = s.bw ∧
      t.th = s.th

/-! ## NOP and CLEAR -/

/-- `NOP` completes with `OK` and writes only `BUSY`, `DONE` and `ERR` (40_frame.md R100). -/
def Obligations.NopCompletes : Prop :=
  ∀ s : State, exec .nop s = .next { s with err := .ok, done := true, seq := .idle }

/-- `CLEAR` writes `LEN`, `NSAMP`, `FRAME_BAD` and `OVERRUN`, which stays 1 for a word dropped during the run, and nothing
else but the completion (40_frame.md R102). The flag `dropped` is the model's own (log 9), and so is the meaning in an idle
state, which no step asks for (log 12). -/
def Obligations.ClearResetsFrameState : Prop :=
  ∀ s : State, exec .clear s = .next { s with
    len := 0#17, nsamp := 0#17, frameBad := false, err := .ok, done := true, seq := .idle
    overrun := match s.seq with
      | .idle => false
      | .run r => r.dropped }

/-- A `CMD` write dropped while `CLEAR` runs leaves `OVERRUN` 1 at completion; with none, an older `OVERRUN` is cleared
(40_frame.md R102, 90_conflicts.md C12). -/
def Obligations.ClearKeepsOverrunOfItsOwnRun : Prop :=
  ∀ (s : State) (c : Word), s.seq = .idle →
    (s.inputs = [wr .cmd 0x00000001#32, wr .cmd c, .turn] →
        ∃ t, steps 3 s = .next t ∧ t.overrun = true ∧ t.len = 0#17 ∧ t.frameBad = false ∧
          t.busy = false) ∧
      (s.inputs = [wr .cmd 0x00000001#32, .turn] →
        ∃ t, steps 2 s = .next t ∧ t.overrun = false ∧ t.len = 0#17 ∧ t.frameBad = false ∧
          t.busy = false)

/-! ## FRAME_PUSH -/

/-- `offset = u32(LINE_ADDR - BASE)`, the subtraction modulo 2^32 (40_frame.md R107). -/
def Obligations.LineOffsetIsModular : Prop :=
  ∀ S : Snapshot, (S.lineOffset.toNat : Int) = ((S.lineAddr.toNat : Int) - (S.base.toNat : Int)) % 2 ^ 32

/-- A push whose line is the next slot of a good frame within capacity appends `w0, w1, w2, w3` at `WORD[LEN .. LEN+3]`
and adds 4 to `LEN` (40_frame.md R106, R109). -/
def Obligations.FramePushAppendsItsLine : Prop :=
  ∀ s : State, s.operands.frameBad = false →
    (s.operands.lineAddr - s.operands.base).toNat = 4 * s.operands.len.toNat → s.operands.len.toNat + 4 ≤ 65536 →
    ∃ m', exec .framePush s = .next { s with
        mem := m', len := s.operands.len + 4#17, err := .ok, done := true, seq := .idle } ∧
      m'.readWord (wordAddr s.operands.len.toNat) = s.operands.lineW0 ∧
      m'.readWord (wordAddr (s.operands.len.toNat + 1)) = s.operands.lineW1 ∧
      m'.readWord (wordAddr (s.operands.len.toNat + 2)) = s.operands.lineW2 ∧
      m'.readWord (wordAddr (s.operands.len.toNat + 3)) = s.operands.lineW3 ∧
      KeepsOutside s.mem m' (wordAddr s.operands.len.toNat) (wordAddr (s.operands.len.toNat + 4))

/-- A push that fails its offset or capacity check sets `FRAME_BAD` and writes neither `WORD` nor `LEN`; one issued with
`FRAME_BAD = 1` changes nothing but the completion's `STATUS` fields (40_frame.md R108). -/
def Obligations.FramePushFailuresWriteNoFrame : Prop :=
  ∀ s : State,
    (s.operands.frameBad = true →
        exec .framePush s = .next { s with err := .noncontig, done := true, seq := .idle }) ∧
      (s.operands.frameBad = false → (s.operands.lineAddr - s.operands.base).toNat ≠ 4 * s.operands.len.toNat →
        exec .framePush s = .next { s with frameBad := true, err := .noncontig, done := true, seq := .idle }) ∧
      (s.operands.frameBad = false → (s.operands.lineAddr - s.operands.base).toNat = 4 * s.operands.len.toNat →
        65536 < s.operands.len.toNat + 4 →
        exec .framePush s = .next { s with frameBad := true, err := .overflow, done := true, seq := .idle })

/-- The continuity law (40_frame.md R105), as host accesses from any idle state: after `run CLEAR`, lines staged and pushed
one after another are accepted exactly when the `m`-th has offset `16·m`; the frame then holds their words in order, and
otherwise the pushing ends with `NONCONTIG`. The schedule is the one without polls while busy, the model's choice (log 2). -/
def Obligations.FrameAcceptedIffContiguous : Prop :=
  ∀ (lines : List Line) (s : State), s.seq = .idle → 4 * lines.length ≤ 65536 →
    s.inputs = runOp .clear 0 ++ lines.flatMap (fun l => pushInputs l 0) →
    ∃ t, steps (3 + 8 * lines.length) s = .next t ∧ t.inputs = [] ∧ t.seq = .idle ∧
      (t.frameBad = false ↔ ∀ m (h : m < lines.length), (lines[m].addr - s.base).toNat = 16 * m) ∧
      (t.frameBad = true → t.err = .noncontig) ∧
      (t.frameBad = false → t.len.toNat = 4 * lines.length ∧
        ∀ m (h : m < lines.length),
          t.mem.readWord (wordAddr (4 * m)) = lines[m].w0 ∧ t.mem.readWord (wordAddr (4 * m + 1)) = lines[m].w1 ∧
            t.mem.readWord (wordAddr (4 * m + 2)) = lines[m].w2 ∧ t.mem.readWord (wordAddr (4 * m + 3)) = lines[m].w3)

/-- The pseudo-instruction `push`, as bus accesses from an idle SAB, stages the line, runs one `FRAME_PUSH` accepted with that
line and ends with the read of its `STATUS` (30_encoding.md R90). The schedule, without polls while busy, is the model's
choice (log 2). -/
def Obligations.PushSequenceRunsFramePush : Prop :=
  ∀ (s : State) (l : Line), s.seq = .idle → s.inputs = pushInputs l 0 →
    ∃ u, exec .framePush ((s.stageLine l).startRun (encode .framePush)) = .next u ∧
      steps 8 s = .next { u with rdata := u.status, inputs := [] }

/-! ## REORDER -/

/-- For `0 <= k <= L-1` the rotation is `out[n] = xseq[(n+k+1) mod L]`: the first `L-k-1` words are `xseq[k+1 .. L-1]` and
the last `k+1` are `xseq[0 .. k]` (40_frame.md R114). -/
def Obligations.ReorderRotatesAtEndAddress : Prop :=
  ∀ s : State, s.operands.frameBad = false → s.operands.endAddr.toNat < s.operands.len.toNat →
    ∃ m', exec .reorder s = .next { s with mem := m', err := .ok, done := true, seq := .idle } ∧
      (∀ n < s.operands.len.toNat, m'.readWord (wordAddr n) =
        s.mem.readWord (wordAddr ((n + s.operands.endAddr.toNat + 1) % s.operands.len.toNat))) ∧
      (∀ n < s.operands.len.toNat - s.operands.endAddr.toNat - 1,
        m'.readWord (wordAddr n) = s.mem.readWord (wordAddr (s.operands.endAddr.toNat + 1 + n))) ∧
      (∀ n ≤ s.operands.endAddr.toNat,
        m'.readWord (wordAddr (s.operands.len.toNat - s.operands.endAddr.toNat - 1 + n)) =
          s.mem.readWord (wordAddr n)) ∧
      KeepsOutside s.mem m' (wordAddr 0) (wordAddr s.operands.len.toNat)

/-- `END_ADDR = LEN - 1`, the buffer did not wrap: every byte of the buffers stays as it was (40_frame.md R115). -/
def Obligations.ReorderWithoutWrapKeepsMemory : Prop :=
  ∀ s : State, s.operands.frameBad = false → s.operands.endAddr.toNat + 1 = s.operands.len.toNat →
    ∃ m', exec .reorder s = .next { s with mem := m', err := .ok, done := true, seq := .idle } ∧
      ∀ x, m'.readByte x = s.mem.readByte x

/-- A successful run of `REORDER` at `k` keeps the length and the multiset of words, and any later run over the frame it
left, with the same `LEN` and at `L-k-2`, restores the original order (40_frame.md R117). -/
def Obligations.ReorderPermutesAndIsUndone : Prop :=
  ∀ (s : State) (r : Run), s.seq = .run r → r.snap.frameBad = false → r.snap.endAddr.toNat < r.snap.len.toNat →
    ∃ t, exec .reorder s = .next t ∧ t.err = .ok ∧ t.len = s.len ∧
      (t.mem.readWords (wordAddr 0) r.snap.len.toNat).Perm (s.mem.readWords (wordAddr 0) r.snap.len.toNat) ∧
      ∀ (s' : State) (r' : Run), s'.seq = .run r' → s'.mem = t.mem → r'.snap.frameBad = false →
        r'.snap.len = r.snap.len → r'.snap.endAddr.toNat + r.snap.endAddr.toNat + 2 = r.snap.len.toNat →
        ∃ u, exec .reorder s' = .next u ∧ u.err = .ok ∧ ∀ x, u.mem.readByte x = s.mem.readByte x

/-- The three refusals of `REORDER` in their order, `WORD` unchanged by each (40_frame.md R112, R113; 60_exceptions.md
R193). -/
def Obligations.ReorderErrorsKeepWords : Prop :=
  ∀ s : State,
    (s.operands.frameBad = true →
        exec .reorder s = .next { s with err := .noncontig, done := true, seq := .idle }) ∧
      (s.operands.frameBad = false → s.operands.endAddr = 0x80000000#32 →
        exec .reorder s = .next { s with err := .incomplete, done := true, seq := .idle }) ∧
      (s.operands.frameBad = false → s.operands.endAddr ≠ 0x80000000#32 →
        s.operands.len.toNat ≤ s.operands.endAddr.toNat →
        exec .reorder s = .next { s with err := .range, done := true, seq := .idle })

/-! ## UNPACK -/

/-- For a legal layout and `L <= 65536`, `UNPACK` stores the two signed fields of every `WORD[n]`, `n < L`, as 32-bit
two's-complement words in the range of `W`, with `NSAMP = L` and `SAMPLE_WIDTH = W` (41_unpack.md R130, R134). -/
def Obligations.UnpackStoresSignedFields : Prop :=
  ∀ (s : State) (mi li mq lq W : Nat),
    mi = layoutField s.operands.layout 24 → li = layoutField s.operands.layout 16 →
    mq = layoutField s.operands.layout 8 → lq = layoutField s.operands.layout 0 → W = mi - li - 1 →
    s.operands.frameBad = false → LegalRanges mi li mq lq → s.operands.len.toNat ≤ 65536 →
    ∃ m', exec .unpack s = .next { s with
        mem := m', nsamp := s.operands.len, sampleWidth := BitVec.ofNat 5 W, err := .ok, done := true, seq := .idle } ∧
      (∀ n < s.operands.len.toNat,
        m'.readWord (iqiAddr n) = BitVec.ofInt 32 (signedField (s.mem.readWord (wordAddr n)) li W) ∧
          m'.readWord (iqqAddr n) = BitVec.ofInt 32 (signedField (s.mem.readWord (wordAddr n)) lq W) ∧
          (m'.readWord (iqiAddr n)).toInt = signedField (s.mem.readWord (wordAddr n)) li W ∧
          (m'.readWord (iqqAddr n)).toInt = signedField (s.mem.readWord (wordAddr n)) lq W ∧
          InWidth W (m'.readWord (iqiAddr n)) ∧ InWidth W (m'.readWord (iqqAddr n))) ∧
      ∀ x, (x < iqiAddr 0 ∨ iqiAddr s.operands.len.toNat ≤ x) → (x < iqqAddr 0 ∨ iqqAddr s.operands.len.toNat ≤ x) →
        m'.readByte x = s.mem.readByte x

/-- `UNPACK` of a bad frame reports `NONCONTIG`, of an illegal layout `FORMAT`, and changes no output
(41_unpack.md R130, R131). -/
def Obligations.UnpackErrorsKeepOutputs : Prop :=
  ∀ s : State,
    (s.operands.frameBad = true →
        exec .unpack s = .next { s with err := .noncontig, done := true, seq := .idle }) ∧
      (s.operands.frameBad = false →
        ¬ LegalRanges (layoutField s.operands.layout 24) (layoutField s.operands.layout 16)
          (layoutField s.operands.layout 8) (layoutField s.operands.layout 0) →
        exec .unpack s = .next { s with err := .format, done := true, seq := .idle })

/-- A legal layout has a width from 1 to 30, and both fields lie in bits 29:0 (41_unpack.md R132). -/
def Obligations.LegalFieldsLieInLowThirtyBits : Prop :=
  ∀ l : Layout, layoutLegal l = true →
    layoutWidth l = l.msbI.toNat - l.lsbI.toNat - 1 ∧ 1 ≤ layoutWidth l ∧ layoutWidth l ≤ 30 ∧
      l.lsbI.toNat + layoutWidth l ≤ 30 ∧ l.lsbQ.toNat + layoutWidth l ≤ 30

/-- Only bits `lsb .. lsb+W-1` of a word are read by a field; `msb-1`, `msb` and all bits above are not
(41_unpack.md R133). -/
def Obligations.UnpackReadsOnlyItsField : Prop :=
  ∀ (l : Layout) (w w' : Word), layoutLegal l = true →
    ((∀ b, l.lsbI.toNat ≤ b → b < l.lsbI.toNat + layoutWidth l → w.getLsbD b = w'.getLsbD b) →
        unpackI l w = unpackI l w') ∧
      ((∀ b, l.lsbQ.toNat ≤ b → b < l.lsbQ.toNat + layoutWidth l → w.getLsbD b = w'.getLsbD b) →
        unpackQ l w = unpackQ l w')

/-- Width 1: the raw field is one bit, it sign-extends to 0 or -1, and normalizes to 0 or -1 (41_unpack.md R136). -/
def Obligations.WidthOneFieldsAreZeroOrMinusOne : Prop :=
  ∀ (l : Layout) (w : Word), layoutLegal l = true → l.msbI.toNat = l.lsbI.toNat + 2 →
    layoutWidth l = 1 ∧ rawField w l.lsbI.toNat 1 = (w.getLsbD l.lsbI.toNat).toNat ∧
      unpackI l w = (if w.getLsbD l.lsbI.toNat then 0xFFFFFFFF#32 else 0#32) ∧
      unpackQ l w = (if w.getLsbD l.lsbQ.toNat then 0xFFFFFFFF#32 else 0#32) ∧
      normalize 1 (unpackI l w) = (if w.getLsbD l.lsbI.toNat then -1 else 0) ∧
      normalize 1 (unpackQ l w) = (if w.getLsbD l.lsbQ.toNat then -1 else 0)

/-- The word that encodes a signed pair in disjoint fields unpacks to exactly that pair, and normalizes with zero error
(41_unpack.md R139). -/
def Obligations.PackedPairUnpacksExactly : Prop :=
  ∀ (l : Layout) (a b : Int), layoutLegal l = true →
    (l.lsbI.toNat + layoutWidth l ≤ l.lsbQ.toNat ∨ l.lsbQ.toNat + layoutWidth l ≤ l.lsbI.toNat) →
    -(2 : Int) ^ (layoutWidth l - 1) ≤ a → a < (2 : Int) ^ (layoutWidth l - 1) →
    -(2 : Int) ^ (layoutWidth l - 1) ≤ b → b < (2 : Int) ^ (layoutWidth l - 1) →
    (unpackI l (packPair l a b)).toInt = a ∧ (unpackQ l (packPair l a b)).toInt = b ∧
      normalize (layoutWidth l) (unpackI l (packPair l a b)) = (a : Rat) / 2 ^ (layoutWidth l - 1) ∧
      normalize (layoutWidth l) (unpackQ l (packPair l a b)) = (b : Rat) / 2 ^ (layoutWidth l - 1)

/-- Lane independence: output `n` depends only on `WORD[n]` and the layout, and elements `n >= L` of `IQI` and `IQQ` are
not written (41_unpack.md R138). -/
def Obligations.UnpackLanesAreIndependent : Prop :=
  ∀ s s' : State, s.operands.frameBad = false → s'.operands.frameBad = false →
    layoutLegal (layoutOf s.operands.layout) = true → s'.operands.layout = s.operands.layout →
    s.operands.len.toNat ≤ 65536 → s'.operands.len.toNat ≤ 65536 →
    ∃ t t', exec .unpack s = .next t ∧ exec .unpack s' = .next t' ∧
      (∀ n, n < s.operands.len.toNat → n < s'.operands.len.toNat →
        s.mem.readWord (wordAddr n) = s'.mem.readWord (wordAddr n) →
        t.mem.readWord (iqiAddr n) = t'.mem.readWord (iqiAddr n) ∧
          t.mem.readWord (iqqAddr n) = t'.mem.readWord (iqqAddr n)) ∧
      ∀ n, s.operands.len.toNat ≤ n → n < 65536 →
        t.mem.readWord (iqiAddr n) = s.mem.readWord (iqiAddr n) ∧
          t.mem.readWord (iqqAddr n) = s.mem.readWord (iqqAddr n)

/-! ## ANALYZE: the command -/

/-- `ANALYZE` with no samples reports `EMPTY`; with samples and an infinity or a NaN in a parameter, `FS <= 0` or `BW < 0`,
it reports `PARAM`; neither changes anything else (42_analyze.md R153, R154, R158, R171; log 1). `lastAnalysis` is the
model's own field (log 18). -/
def Obligations.AnalyzeRejectsEmptyThenParameters : Prop :=
  ∀ s : State,
    (s.operands.nsamp = 0#17 →
        exec .analyze s = .next { s with err := .empty, done := true, seq := .idle, lastAnalysis := some .empty }) ∧
      (s.operands.nsamp ≠ 0#17 →
        (s.operands.fs.extractLsb' 52 11 = 0x7FF#11 ∨ s.operands.cf.extractLsb' 52 11 = 0x7FF#11 ∨
          s.operands.bw.extractLsb' 52 11 = 0x7FF#11 ∨ s.operands.th.extractLsb' 52 11 = 0x7FF#11 ∨
          s.operands.fs.getLsbD 63 = true ∨ s.operands.fs.extractLsb' 0 63 = 0#63 ∨
          (s.operands.bw.getLsbD 63 = true ∧ s.operands.bw.extractLsb' 0 63 ≠ 0#63)) →
        exec .analyze s = .next { s with err := .param, done := true, seq := .idle, lastAnalysis := some .param })

/-- The values the analyzer's parameters have after reset: `FS` 0, `CF` 0.75, `BW` 1 and `TH` 10
(10_state.md R31, R37 to R39; 30_encoding.md R87). -/
def Obligations.ResetParametersDenoteTheirValues : Prop :=
  binary64Value State.reset.fs = some 0 ∧ binary64Value State.reset.cf = some (3 / 4) ∧
    binary64Value State.reset.bw = some 1 ∧ binary64Value State.reset.th = some 10 ∧
    binary64Value 0x7FF0000000000000#64 = none ∧ binary64Value 0x7FF8000000000000#64 = none ∧
    binary64Value 0xBFF0000000000000#64 = some (-1)

/-- With legal parameters and no bin in the closed window, `ANALYZE` reports `EMPTY_BAND`; the results take some values
and everything else, every byte below `SPEC` among it, is unchanged (42_analyze.md R163, R171). `lastAnalysis` is the
model's own field (log 18). -/
def Obligations.AnalyzeReportsEmptyBand : Prop :=
  ∀ (s : State) (p : Params), s.operands.nsamp ≠ 0#17 → s.operands.params = some p →
    (∀ k : Nat, k < s.operands.nsamp.toNat →
      ¬ (p.cf * p.fs / 2 - p.bw / 2 ≤
            ((k : Rat) - ((s.operands.nsamp.toNat / 2 : Nat) : Rat)) * p.fs / (s.operands.nsamp.toNat : Rat) ∧
          ((k : Rat) - ((s.operands.nsamp.toNat / 2 : Nat) : Rat)) * p.fs / (s.operands.nsamp.toNat : Rat) ≤
            p.cf * p.fs / 2 + p.bw / 2)) →
    ∃ t : State, exec .analyze s = .next { s with
        err := .emptyBand, done := true, seq := .idle, sigDb := t.sigDb, dcDb := t.dcDb, toneDb := t.toneDb,
        nband := t.nband, ntone := t.ntone, nspec := t.nspec, toneValid := t.toneValid, mem := t.mem,
        lastAnalysis := some .emptyBand, draws := t.draws } ∧
      ∀ x < specAddr 0, t.mem.readByte x = s.mem.readByte x

/-- The headline of the analyzer: on in-range samples, legal parameters and a non-empty band, `ANALYZE` completes with an
outcome stored as 42_analyze.md R166, R168 and R170 say, and nothing but the results and the completion is changed; for
every `SAMPLE_WIDTH` there is, 1 to 30 (R152), the outcome conforms to the exact reference of R150 to R169 within `TOL_P`
and `TOL_DB` (R172; log 17 where no binary64 lies within a tolerance). `lastAnalysis` is the model's own field (log 18). -/
def Obligations.AnalyzeConformsToReference : Prop :=
  ∀ (s : State) (p : Params) (inp : AnalyzeInput),
    0 < s.operands.nsamp.toNat → s.operands.nsamp.toNat ≤ 65536 → 1 ≤ s.operands.sampleWidth.toNat →
    (∀ n < s.operands.nsamp.toNat, InWidth s.operands.sampleWidth.toNat (s.mem.readWord (iqiAddr n)) ∧
      InWidth s.operands.sampleWidth.toNat (s.mem.readWord (iqqAddr n))) →
    s.operands.params = some p → inp = analyzeInput s.mem s.operands p → inp.band ≠ [] →
    ∃ (o : AnalyzeOutcome) (t : State),
      (s.operands.sampleWidth.toNat ≤ 30 → Conforms Config.numerics.tolP Config.numerics.tolDb inp o) ∧
      exec .analyze s = .next { s with
        err := t.err, done := true, seq := .idle, sigDb := t.sigDb, dcDb := t.dcDb, toneDb := t.toneDb,
        nband := t.nband, ntone := t.ntone, nspec := t.nspec, toneValid := t.toneValid, mem := t.mem,
        lastAnalysis := some t.err, draws := t.draws } ∧
      (∀ x < specAddr 0, t.mem.readByte x = s.mem.readByte x) ∧
      (o.logDomain = true → t.err = .logDomain) ∧
      (o.logDomain = false →
        t.err = .ok ∧ t.draws = s.draws ∧ t.nspec = s.operands.nsamp ∧ t.nband.toNat = inp.band.length ∧
        t.ntone.toNat = (inp.tones o).length ∧ (t.toneValid = true ↔ inp.tones o ≠ []) ∧
        t.dcDb = o.dcDb ∧ t.sigDb = o.sigDb ∧ (inp.tones o ≠ [] → t.toneDb = o.toneDb) ∧
        (inp.tones o = [] → t.toneDb = 0#64) ∧
        (∀ k < s.operands.nsamp.toNat,
          t.mem.readWord (specAddr k + 4) ++ t.mem.readWord (specAddr k) = o.spec k ∧
            t.mem.readWord (classAddr k) =
              (if k ∈ inp.tones o then 3#32 else if k ∈ inp.band then 1#32 else 0#32)) ∧
        ∀ x, (specAddr s.operands.nsamp.toNat ≤ x ∧ x < classAddr 0) ∨ classAddr s.operands.nsamp.toNat ≤ x →
          t.mem.readByte x = s.mem.readByte x)

/-- The outcome is "a total function of `(x[0 .. N-1], FS, CF, BW, TH)` alone" (42_analyze.md R172): two states that
present the same samples and parameter values get the same code and, with `OK`, the same results. -/
def Obligations.AnalyzeDependsOnlyOnItsInput : Prop :=
  ∀ (s s' : State) (p : Params), s.operands.params = some p → s'.operands.params = some p →
    s.operands.nsamp = s'.operands.nsamp → s.operands.nsamp.toNat ≤ 65536 →
    analyzeInput s.mem s.operands p = analyzeInput s'.mem s'.operands p →
    ∃ t t', exec .analyze s = .next t ∧ exec .analyze s' = .next t' ∧ t.err = t'.err ∧
      (t.err = .ok → t.nspec = t'.nspec ∧ t.nband = t'.nband ∧ t.ntone = t'.ntone ∧ t.toneValid = t'.toneValid ∧
        t.sigDb = t'.sigDb ∧ t.dcDb = t'.dcDb ∧ t.toneDb = t'.toneDb ∧
        ∀ k < s.operands.nsamp.toNat,
          t.mem.readWord (specAddr k) = t'.mem.readWord (specAddr k) ∧
            t.mem.readWord (specAddr k + 4) = t'.mem.readWord (specAddr k + 4) ∧
            t.mem.readWord (classAddr k) = t'.mem.readWord (classAddr k))

/-! ## ANALYZE: the reference -/

/-- A sample of width `W` normalizes into `[-1, 1 - 2^-(W-1)]`, and only the most negative raw value reaches -1
(41_unpack.md R135). -/
def Obligations.NormalizedSamplesLieInUnitRange : Prop :=
  ∀ (W : Nat) (w : Word), 1 ≤ W → InWidth W w →
    -1 ≤ normalize W w ∧ normalize W w ≤ 1 - 1 / 2 ^ (W - 1) ∧
      (normalize W w = -1 ↔ w.toInt = -(2 : Int) ^ (W - 1))

/-- The shifted spectrum: DC stands at `k = h` with frequency 0 and power `p[0]`; for even `N` the axis runs from `-FS/2`
to `FS/2 - FS/N`, for odd `N` from `-(N-1)/2·FS/N` to `(N-1)/2·FS/N` (42_analyze.md R161, R162). -/
def Obligations.SpectrumIsCentredOnDc : Prop :=
  ∀ (inp : AnalyzeInput) (N : Nat), N = inp.samples.length → 0 < N →
    inp.dcIndex = N / 2 ∧ inp.power (N / 2) = inp.dcPower ∧ inp.frequency (N / 2) = 0 ∧
      (∀ k < N, inp.power k = inp.unshiftedPower ((k + (N - N / 2)) % N)) ∧
      (N % 2 = 0 → inp.frequency 0 = -inp.fs / 2 ∧ inp.frequency (N - 1) = inp.fs / 2 - inp.fs / N) ∧
      (N % 2 = 1 → inp.frequency 0 = -((N : Rat) - 1) / 2 * inp.fs / N ∧
        inp.frequency (N - 1) = ((N : Rat) - 1) / 2 * inp.fs / N)

/-- Energy: `Σ_m p[m] = (1/N)·Σ_n |x[n]|^2` (42_analyze.md R175 item 2, its identity). -/
def Obligations.SpectrumKeepsEnergy : Prop :=
  ∀ inp : AnalyzeInput, inp.samples ≠ [] →
    ∑ m ∈ Finset.range inp.length, inp.unshiftedPower m =
      (1 / (inp.length : ℝ)) * ∑ n ∈ Finset.range inp.length, ‖inp.sample n‖ ^ 2

/-- 42_analyze.md R175 item 2 also claims the STRICT bound `Σ_k P[k] < 2`. Samples that are all `-1 - j` reach 2, so this
literal claim is expected to fail (log 15). -/
def Obligations.TotalPowerIsBelowTwo : Prop :=
  ∀ inp : AnalyzeInput, inp.samples ≠ [] → (∀ x ∈ inp.samples, (-1 ≤ x.1 ∧ x.1 < 1) ∧ (-1 ≤ x.2 ∧ x.2 < 1)) →
    inp.powerSum (List.range inp.length) < 2

/-- Rotation invariance: rotating the samples circularly changes no `p[m]` (42_analyze.md R175 item 3). -/
def Obligations.RotationKeepsSpectrum : Prop :=
  ∀ (inp : AnalyzeInput) (r m : Nat),
    ({ inp with samples := inp.samples.rotate r } : AnalyzeInput).unshiftedPower m = inp.unshiftedPower m

/-- Scaling: multiplying every sample by `a` multiplies every `p[m]` by `a^2` and leaves the band as it is
(42_analyze.md R175 item 4, its power and band clauses). -/
def Obligations.ScalingScalesSpectrum : Prop :=
  ∀ (inp : AnalyzeInput) (a : Rat) (m : Nat),
    ({ inp with samples := inp.samples.map fun x => (a * x.1, a * x.2) } : AnalyzeInput).unshiftedPower m =
        (a : ℝ) ^ 2 * inp.unshiftedPower m ∧
      ({ inp with samples := inp.samples.map fun x => (a * x.1, a * x.2) } : AnalyzeInput).band = inp.band

/-- Pure tone: for `x[n] = A·exp(2πj·m0·n/N)` the power of bin `m0 mod N` is `A^2` and every other bin is 0
(42_analyze.md R175 item 1). -/
def Obligations.PureToneFillsOneBin : Prop :=
  ∀ (inp : AnalyzeInput) (A : ℝ) (m0 : Int), inp.samples ≠ [] → 0 < A →
    (∀ n < inp.length,
      inp.sample n = A * Complex.exp (2 * Real.pi * Complex.I * m0 * n / inp.length)) →
    ∀ m < inp.length, inp.unshiftedPower m = if (m : Int) = m0 % inp.length then A ^ 2 else 0

/-- With `TH >= 0` the smallest in-band power is at most the mean and hence at most `thr`, so the reference leaves some
in-band bin that is no tone (42_analyze.md R167). -/
def Obligations.SomeInBandBinIsNoTone : Prop :=
  ∀ inp : AnalyzeInput, inp.samples ≠ [] → inp.band ≠ [] → 0 ≤ inp.th →
    ∃ k ∈ inp.band, inp.power k ≤ inp.mean ∧ inp.power k ≤ inp.threshold

/-! ## The host's accesses -/

/-- While no command runs, a 32-bit read returns the value the address map gives: each register, each buffer element, and
0 at every reserved address; nothing else changes (20_memory.md R62, R64, R65; 10_state.md R44). -/
def Obligations.ReadsFollowAddressMap : Prop :=
  ∀ (s : State) (addr : Word) (rest : List Input), s.seq = .idle →
    s.inputs = .access (.read addr .bits32) :: rest → addr.toNat % 4 = 0 →
    ∀ o, o = addr.toNat % 2 ^ 21 →
      (∀ e ∈ registerValues s, o = e.1 → step s = .next { s with rdata := e.2, inputs := rest }) ∧
      (∀ n < 65536, o = 0x40000 + 4 * n →
        step s = .next { s with rdata := s.mem.readWord (0x40000 + 4 * n), inputs := rest }) ∧
      (∀ n < 65536, o = 0x80000 + 4 * n →
        step s = .next { s with rdata := s.mem.readWord (0x80000 + 4 * n), inputs := rest }) ∧
      (∀ n < 65536, o = 0xC0000 + 4 * n →
        step s = .next { s with rdata := s.mem.readWord (0xC0000 + 4 * n), inputs := rest }) ∧
      (∀ k < 65536, (o = 0x100000 + 8 * k ∨ o = 0x100004 + 8 * k) →
        step s = .next { s with rdata := s.mem.readWord o, inputs := rest }) ∧
      (∀ k < 65536, o = 0x180000 + 4 * k →
        step s = .next { s with rdata := s.mem.readWord (0x180000 + 4 * k) &&& 3#32, inputs := rest }) ∧
      ((0x84 ≤ o ∧ o < 0x40000) ∨ 0x1C0000 ≤ o → step s = .next { s with rdata := 0#32, inputs := rest })

/-- A well-formed read, in any state, changes no register, no buffer and no sequencer state: only the returned value and
the model's count of free values (20_memory.md R62). -/
def Obligations.ReadsChangeNoState : Prop :=
  ∀ (s : State) (addr : Word) (rest : List Input),
    s.inputs = .access (.read addr .bits32) :: rest → addr.toNat % 4 = 0 →
    ∃ v d, step s = .next { s with rdata := v, draws := d, inputs := rest }

/-- While no command runs, a 32-bit write stores into the read-write register or `WORD` element the map gives and is
ignored everywhere else, `CMD` apart (20_memory.md R63 to R65; 10_state.md R26, R46, R47). -/
def Obligations.WritesFollowAddressMap : Prop :=
  ∀ (s : State) (addr v : Word) (rest : List Input), s.seq = .idle →
    s.inputs = .access (.write addr .bits32 v) :: rest → addr.toNat % 4 = 0 →
    ∀ o, o = addr.toNat % 2 ^ 21 →
      (∀ e ∈ registerWrites s v, o = e.1 → step s = .next { e.2 with inputs := rest }) ∧
      (∀ n < 65536, o = 0x40000 + 4 * n →
        ∃ m', step s = .next { s with mem := m', inputs := rest } ∧ m'.readWord (wordAddr n) = v ∧
          KeepsOutside s.mem m' (wordAddr n) (wordAddr (n + 1))) ∧
      (IgnoresWrites o → step s = .next { s with inputs := rest })

/-- The two halves of a 64-bit register are written independently, in either order, and make `X_HI ++ X_LO`
(10_state.md R46). -/
def Obligations.HalvesWriteInEitherOrder : Prop :=
  ∀ (s : State) (x : Config64) (lo hi : Word), s.seq = .idle →
    (s.inputs = [wr (configLo x) lo, wr (configHi x) hi] ∨ s.inputs = [wr (configHi x) hi, wr (configLo x) lo]) →
    steps 2 s = .next (match x with
      | .fs => { s with fs := hi ++ lo, inputs := [] }
      | .cf => { s with cf := hi ++ lo, inputs := [] }
      | .bw => { s with bw := hi ++ lo, inputs := [] }
      | .th => { s with th := hi ++ lo, inputs := [] })

/-- `STATUS` during a run: `BUSY = 1`, `DONE = 0`, `ERR = 0` and the sticky `OVERRUN`; `FRAME_BAD` too unless `FRAME_PUSH` or
`CLEAR` runs, `TONE_VALID` too unless `ANALYZE` runs (70_reset_and_hazards.md R217(a)). That an `OVERRUN` set before a
`CLEAR`'s issue reads 1 during that run is the model's choice (log 19). -/
def Obligations.StatusReadsDefinedFieldsWhileBusy : Prop :=
  ∀ (s : State) (r : Run) (addr : Word) (rest : List Input), Inv s → s.seq = .run r →
    s.inputs = .access (.read addr .bits32) :: rest → addr.toNat % 2 ^ 21 = 8 →
    ∃ t, step s = .next t ∧ t.rdata.getLsbD 0 = true ∧ t.rdata.getLsbD 1 = false ∧
      t.rdata.getLsbD 3 = s.overrun ∧ t.rdata.extractLsb' 8 4 = 0#4 ∧ t.rdata.extractLsb' 5 3 = 0#3 ∧
      t.rdata.extractLsb' 12 20 = 0#20 ∧
      (r.word ≠ 0x00000001#32 → r.word ≠ 0x00000002#32 → t.rdata.getLsbD 2 = s.frameBad) ∧
      (r.word ≠ 0x00000005#32 → t.rdata.getLsbD 4 = s.toneValid)

/-- Whatever word runs, a 32-bit read of any register, buffer element or reserved address it does not write, `STATUS` apart,
returns the value it would return while idle (which `ReadsFollowAddressMap` gives), and changes nothing else
(20_memory.md R62, R71(c); 70_reset_and_hazards.md R217(a); 30_encoding.md R81, R82). -/
def Obligations.UnwrittenStateReadsLiveWhileBusy : Prop :=
  ∀ (s : State) (r : Run) (addr : Word) (rest : List Input), s.seq = .run r →
    s.inputs = .access (.read addr .bits32) :: rest → addr.toNat % 4 = 0 →
    UnwrittenOffset r.word r.snap.len.toNat (addr.toNat % 2 ^ 21) →
    ∃ v, step s = .next { s with rdata := v, inputs := rest } ∧
      step { s with seq := .idle } = .next { s with seq := .idle, rdata := v, inputs := rest }

/-- A host write of `WORD` while `FRAME_PUSH`, `REORDER` or `UNPACK` runs, or of `LEN` while `CLEAR` or `FRAME_PUSH` runs, is
refused (70_reset_and_hazards.md R217(b)). -/
def Obligations.HazardousWritesAreRefused : Prop :=
  ∀ (s : State) (r : Run) (v : Word) (rest : List Input), s.seq = .run r →
    (∀ n < 65536, (r.word = 0x00000002#32 ∨ r.word = 0x00000003#32 ∨ r.word = 0x00000004#32) →
        s.inputs = wrWord n v :: rest → step s = .refused .busyWriteHazard) ∧
      ((r.word = 0x00000001#32 ∨ r.word = 0x00000002#32) → s.inputs = wr .len v :: rest →
        step s = .refused .busyWriteHazard)

/-- Every other host write during a run is safe and has its idle effect: registers, `LEN` while neither `CLEAR` nor
`FRAME_PUSH` runs, `WORD` while none of `FRAME_PUSH`, `REORDER` and `UNPACK` runs, and the ignored addresses
(70_reset_and_hazards.md R217, 20_memory.md R63). -/
def Obligations.SafeWritesStoreWhileBusy : Prop :=
  ∀ (s : State) (r : Run) (addr v : Word) (rest : List Input), s.seq = .run r →
    s.inputs = .access (.write addr .bits32 v) :: rest → addr.toNat % 4 = 0 →
    ∀ o, o = addr.toNat % 2 ^ 21 →
      (∀ e ∈ registerWrites s v, o = e.1 → (o = 0x14 → r.word ≠ 0x00000001#32 ∧ r.word ≠ 0x00000002#32) →
        step s = .next { e.2 with inputs := rest }) ∧
      (∀ n < 65536, o = 0x40000 + 4 * n →
        r.word ≠ 0x00000002#32 → r.word ≠ 0x00000003#32 → r.word ≠ 0x00000004#32 →
        ∃ m', step s = .next { s with mem := m', inputs := rest } ∧ m'.readWord (wordAddr n) = v ∧
          KeepsOutside s.mem m' (wordAddr n) (wordAddr (n + 1))) ∧
      (IgnoresWrites o → step s = .next { s with inputs := rest })

/-- An access that is not 32 bits wide or not 4-byte aligned is refused, and so is one of a second master
(20_memory.md R67, R70). -/
def Obligations.MalformedAccessesAreRefused : Prop :=
  ∀ (s : State) (addr v : Word) (size : AccessSize) (rest : List Input),
    (size ≠ .bits32 ∨ addr.toNat % 4 ≠ 0 →
        (s.inputs = .access (.read addr size) :: rest → step s = .refused .malformedAccess) ∧
          (s.inputs = .access (.write addr size v) :: rest → step s = .refused .malformedAccess)) ∧
      (s.inputs = .otherMaster :: rest → step s = .refused .otherMaster)

/-- The SAB decodes only the low 21 bits of an address: the access at the address any `SAB_BASE` makes of an aperture
offset is the access at that offset (20_memory.md R60; log 11). -/
def Obligations.ApertureIgnoresUpperBits : Prop :=
  ∀ (s : State) (base : BitVec 11) (o : BitVec 21) (v : Word),
    hostAccess (.read (base ++ o) .bits32) s = hostAccess (.read (0#11 ++ o) .bits32) s ∧
      hostAccess (.write (base ++ o) .bits32 v) s = hostAccess (.write (0#11 ++ o) .bits32 v) s

/-- A command reads its register operands from the snapshot, never from the live registers: host writes during the run to
`BASE`, `END_ADDR`, `LAYOUT`, the staging registers, `FS`, `CF`, `BW` and `TH`, and to `LEN` while neither `CLEAR` nor `FRAME_PUSH`
runs, pass through it unchanged and change nothing of it (10_state.md R45, 20_memory.md R71(a), 70_reset_and_hazards.md
R217(b)). -/
def Obligations.RunningCommandReadsItsSnapshot : Prop :=
  ∀ (i : Instr) (s v : State) (r : Run), s.seq = .run r →
    exec i (rewriteRegisters s v) = mapNext (fun t => rewriteRegisters t v) (exec i s) ∧
      (i ≠ .clear → i ≠ .framePush →
        exec i { rewriteRegisters s v with len := v.len } =
          mapNext (fun t => { rewriteRegisters t v with len := v.len }) (exec i s))

/-- A host that keeps its duties is never refused (60_exceptions.md R201). -/
def Obligations.DutifulInputsAreAccepted : Prop :=
  ∀ (s : State) (e : Input) (rest : List Input), s.inputs = e :: rest → dutiful s e = true → ∃ t, step s = .next t

/-- The model's own (log 1): where the sequencer's turn completes a command with `EMPTY` or `LOG_DOMAIN`, which
93_implementation_defined.md rows 3 and 4 call out of contract, the contract machine faults; where that turn completes
neither so nor an analysis near `LOG_DOMAIN`, and on every step that is no such turn, it does what `step` does. What it does
on an `OK` analysis near `LOG_DOMAIN` is `ContractFaultsNearLogDomain`. -/
def Obligations.ContractFaultsOutOfContract : Prop :=
  ∀ s t : State, step s = .next t →
    (∀ r, s.seq = .run r → TurnNext s →
      (t.err = .empty → contractStep s = .fault .emptyInput) ∧
        (t.err = .logDomain → contractStep s = .fault .logDomain) ∧
        (t.err ≠ .empty → t.err ≠ .logDomain → ¬ AnalyzesNearLogDomain s → contractStep s = .next t)) ∧
      (s.seq = .idle ∨ ¬ TurnNext s → contractStep s = .next t)

/-! ## Reset, STATUS and invariants -/

/-- Every register's reset value, the sequencer idle (70_reset_and_hazards.md R210). -/
def Obligations.ResetValuesAreTheSpecs : Prop :=
  State.reset.status = 0x00000000#32 ∧ State.reset.base = 0#32 ∧ State.reset.endAddr = 0x80000000#32 ∧
    State.reset.len = 0#17 ∧ State.reset.layout = 0#32 ∧ State.reset.nsamp = 0#17 ∧ State.reset.sampleWidth = 0#5 ∧
    State.reset.lineAddr = 0#32 ∧ State.reset.lineW0 = 0#32 ∧ State.reset.lineW1 = 0#32 ∧ State.reset.lineW2 = 0#32 ∧
    State.reset.lineW3 = 0#32 ∧ State.reset.fs = 0#64 ∧ State.reset.cf = 0x3FE8000000000000#64 ∧
    State.reset.bw = 0x3FF0000000000000#64 ∧ State.reset.th = 0x4024000000000000#64 ∧ State.reset.sigDb = 0#64 ∧
    State.reset.dcDb = 0#64 ∧ State.reset.toneDb = 0#64 ∧ State.reset.nband = 0#32 ∧ State.reset.ntone = 0#32 ∧
    State.reset.nspec = 0#17 ∧ State.reset.seq = .idle ∧ State.reset.readReg .id = 0x47440007#32

/-- The platform's reset, in any state and during any run, gives the register values of the reset state, abandons the run
and reports no completion; the inputs after it stay (70_reset_and_hazards.md R210, R211; log 14). -/
def Obligations.ResetAbandonsAnyRun : Prop :=
  ∀ (s : State) (rest : List Input), s.inputs = .reset :: rest →
    ∃ m' d, step s = .next { State.reset with mem := m', draws := d, rdata := s.rdata, inputs := rest } ∧ m'.wf = true

/-- The bits of `STATUS`: 0 `BUSY`, 1 `DONE`, 2 `FRAME_BAD`, 3 `OVERRUN`, 4 `TONE_VALID`, 11:8 `ERR`, all others 0; `BUSY` is 1
exactly when a command runs (10_state.md R23, R45; 60_exceptions.md R192). -/
def Obligations.StatusBitsStandInTheirPlaces : Prop :=
  ∀ s : State, (s.status.getLsbD 0 = true ↔ ∃ r, s.seq = .run r) ∧ s.status.getLsbD 1 = s.done ∧
    s.status.getLsbD 2 = s.frameBad ∧ s.status.getLsbD 3 = s.overrun ∧ s.status.getLsbD 4 = s.toneValid ∧
    s.status.extractLsb' 5 3 = 0#3 ∧ s.status.extractLsb' 12 20 = 0#20 ∧
    (s.status.extractLsb' 8 4).toNat = match s.err with
      | .ok => 0
      | .badCmd => 1
      | .noncontig => 2
      | .overflow => 3
      | .incomplete => 4
      | .range => 5
      | .format => 6
      | .empty => 7
      | .param => 8
      | .emptyBand => 9
      | .logDomain => 10

/-- The invariant holds after reset. -/
def Obligations.ResetMeetsInvariant : Prop := Inv State.reset

/-- Every step keeps the invariant: `LEN` and `NSAMP` within capacity, a legal `SAMPLE_WIDTH` whenever there are samples
(42_analyze.md R152), every valid sample in its range (10_state.md R41), the memory in its canonical form, the facts
about a run (10_state.md R23, R45), and those about the results as long as the last `ANALYZE` completed with `OK`
(42_analyze.md R168, R170; 70_reset_and_hazards.md R220; logs 4 and 18). -/
def Obligations.EveryStepKeepsInvariant : Prop := ∀ s t : State, Inv s → step s = .next t → Inv t

/-- The sticky bits: `FRAME_BAD` once set is cleared only by a `CLEAR` or a reset, and `OVERRUN` only by a reset or by a
`CLEAR` during whose run no word was dropped (40_frame.md R102, R111; 60_exceptions.md R190, R196; 90_conflicts.md C12). The
flag `dropped` that tells such a `CLEAR` is the model's own (log 9). -/
def Obligations.StickyBitsClearOnlyByClearOrReset : Prop :=
  ∀ s t : State, step s = .next t →
    (s.frameBad = true → t.frameBad = true ∨ ResetNext s ∨ ∃ r, WordRuns 0x00000001#32 s r) ∧
      (s.overrun = true → t.overrun = true ∨ ResetNext s ∨ ∃ r, WordRuns 0x00000001#32 s r ∧ r.dropped = false)

/-! ## The contract and the results -/

/-- The model's own (log 1): the turn of an `ANALYZE` that passes its checks faults in the contract machine whenever some
logarithm's argument (`mean`, `p[0]`, `sig`, `tone`) is not above `N·TOL_P`, under the classification made or under the
reference's, whichever of `LOG_DOMAIN` and `OK` the outcome reports ("A model treats every such outcome as a fault",
42_analyze.md R172 item 4; R155; 93_implementation_defined.md row 3). -/
def Obligations.ContractFaultsNearLogDomain : Prop :=
  ∀ (s : State) (r : Run) (p : Params) (inp : AnalyzeInput) (cls : Nat → Bool),
    WordRuns 0x00000005#32 s r → r.snap.nsamp ≠ 0#17 → r.snap.params = some p →
    inp = analyzeInput s.mem r.snap p → inp.band ≠ [] →
    (cls = (Config.numerics.outcome inp).tone ∨ ∀ k, cls k = true ↔ inp.threshold < inp.power k) →
    (inp.mean ≤ (inp.length : ℝ) * (Config.numerics.tolP : ℝ) ∨
      inp.dcPower ≤ (inp.length : ℝ) * (Config.numerics.tolP : ℝ) ∨
      inp.powerSum (inp.band.filter fun k => !cls k) ≤ (inp.length : ℝ) * (Config.numerics.tolP : ℝ) ∨
      (inp.band.filter cls ≠ [] ∧
        inp.powerSum (inp.band.filter cls) ≤ (inp.length : ℝ) * (Config.numerics.tolP : ℝ))) →
    contractStep s = .fault .logDomain

/-- The results are meaningful only when the last `ANALYZE` completed with `OK` (70_reset_and_hazards.md R220): after its turn
they are so exactly when `STATUS` reads `DONE = 1` and `ERR = 0`; after a reset they are not; and every other step of a state
that meets the invariant keeps the result registers, `TONE_VALID` and every byte of `SPEC` and `CLASS`, and makes no
meaningless result meaningful. `lastAnalysis`, which remembers the last code, is the model's own (log 18). -/
def Obligations.ResultsAreMeaningfulOnlyAfterOkAnalysis : Prop :=
  ∀ s t : State, Inv s → step s = .next t →
    ((∃ r, WordRuns 0x00000005#32 s r) →
        (resultsValid t = true ↔ t.status.getLsbD 1 = true ∧ t.status.extractLsb' 8 4 = 0#4)) ∧
      (ResetNext s → resultsValid t = false) ∧
      (¬ (∃ r, WordRuns 0x00000005#32 s r) → ¬ ResetNext s →
        KeepsResults s t ∧ (resultsValid t = true → resultsValid s = true))
end

