-- ==== Sys2Proof/Laws/AddressMap.lean ====
section
/-!
SUPPORT. The laws of the address map: every mapped address decodes to what it stands for, every target lies inside its
window, and the bits above the aperture are not decoded.
-/
namespace Sys2Proof.Machine

/-- The window bases as numbers (20_memory.md R64). -/
theorem window_bases :
    Config.wordBase = 262144 ∧ Config.iqiBase = 524288 ∧ Config.iqqBase = 786432 ∧ Config.specBase = 1048576 ∧
      Config.classBase = 1572864 ∧ Config.bufferEnd = 1835008 := ⟨rfl, rfl, rfl, rfl, rfl, rfl⟩

/-- No two registers share an offset: the register at a register's offset is that register. -/
@[simp] theorem regAt_regOffset (r : RegName) : regAt (regOffset r) = some r := by cases r <;> rfl

/-- Every register lies below the buffers, at a multiple of 4. -/
theorem regOffset_lt (r : RegName) : regOffset r < 0x84 ∧ regOffset r % 4 = 0 := by cases r <;> decide

/-- A register is mapped only at its own offset. -/
theorem regAt_eq_some {o : Nat} {r : RegName} (h : regAt o = some r) : o = regOffset r := by
  have := List.find?_some h
  simpa using (beq_iff_eq.1 this).symm

@[simp] theorem targetAt_regOffset (r : RegName) : targetAt (regOffset r) = .reg r := by
  have h : regOffset r < Config.wordBase := Nat.lt_trans (regOffset_lt r).1 (by decide)
  simp [targetAt, h]

theorem targetAt_wordAddr {n : Nat} (h : n < 65536) : targetAt (wordAddr n) = .word n := by
  have hb := window_bases
  have ha : wordAddr n = Config.wordBase + 4 * n := rfl
  rw [targetAt, if_neg (by omega), if_pos (by omega)]
  congr 1
  omega

theorem targetAt_iqiAddr {n : Nat} (h : n < 65536) : targetAt (iqiAddr n) = .iqi n := by
  have hb := window_bases
  have ha : iqiAddr n = Config.iqiBase + 4 * n := rfl
  rw [targetAt, if_neg (by omega), if_neg (by omega), if_pos (by omega)]
  congr 1
  omega

theorem targetAt_iqqAddr {n : Nat} (h : n < 65536) : targetAt (iqqAddr n) = .iqq n := by
  have hb := window_bases
  have ha : iqqAddr n = Config.iqqBase + 4 * n := rfl
  rw [targetAt, if_neg (by omega), if_neg (by omega), if_neg (by omega), if_pos (by omega)]
  congr 1
  omega

theorem targetAt_specAddr {k : Nat} (h : k < 65536) : targetAt (specAddr k) = .specLo k := by
  have hb := window_bases
  have ha : specAddr k = Config.specBase + 8 * k := rfl
  rw [targetAt, if_neg (by omega), if_neg (by omega), if_neg (by omega), if_neg (by omega), if_pos (by omega), if_pos (by omega)]
  congr 1
  omega

theorem targetAt_specAddr_hi {k : Nat} (h : k < 65536) : targetAt (specAddr k + 4) = .specHi k := by
  have hb := window_bases
  have ha : specAddr k = Config.specBase + 8 * k := rfl
  rw [targetAt, if_neg (by omega), if_neg (by omega), if_neg (by omega), if_neg (by omega), if_pos (by omega), if_neg (by omega)]
  congr 1
  omega

theorem targetAt_classAddr {k : Nat} (h : k < 65536) : targetAt (classAddr k) = .cls k := by
  have hb := window_bases
  have ha : classAddr k = Config.classBase + 4 * k := rfl
  rw [targetAt, if_neg (by omega), if_neg (by omega), if_neg (by omega), if_neg (by omega), if_neg (by omega), if_pos (by omega)]
  congr 1
  omega

/-- Everything a target can be, with the offsets it stands at. -/
theorem targetAt_cases (o : Nat) :
    (∃ r, o = regOffset r ∧ targetAt o = .reg r) ∨
      (∃ n, n < 65536 ∧ wordAddr n ≤ o ∧ o < wordAddr (n + 1) ∧ targetAt o = .word n) ∨
      (∃ n, n < 65536 ∧ iqiAddr n ≤ o ∧ o < iqiAddr (n + 1) ∧ targetAt o = .iqi n) ∨
      (∃ n, n < 65536 ∧ iqqAddr n ≤ o ∧ o < iqqAddr (n + 1) ∧ targetAt o = .iqq n) ∨
      (∃ k, k < 65536 ∧ specAddr k ≤ o ∧ o < specAddr k + 4 ∧ targetAt o = .specLo k) ∨
      (∃ k, k < 65536 ∧ specAddr k + 4 ≤ o ∧ o < specAddr (k + 1) ∧ targetAt o = .specHi k) ∨
      (∃ k, k < 65536 ∧ classAddr k ≤ o ∧ o < classAddr (k + 1) ∧ targetAt o = .cls k) ∨
      (((o < Config.wordBase ∧ regAt o = none) ∨ Config.bufferEnd ≤ o) ∧ targetAt o = .unmapped) := by
  have hb := window_bases
  unfold targetAt wordAddr iqiAddr iqqAddr specAddr classAddr
  by_cases h1 : o < Config.wordBase
  · rw [if_pos h1]
    cases h : regAt o with
    | some r => exact .inl ⟨r, regAt_eq_some h, rfl⟩
    | none => exact .inr (.inr (.inr (.inr (.inr (.inr (.inr ⟨.inl ⟨h1, rfl⟩, rfl⟩))))))
  rw [if_neg h1]
  by_cases h2 : o < Config.iqiBase
  · rw [if_pos h2]
    exact .inr (.inl ⟨_, by omega, by omega, by omega, rfl⟩)
  rw [if_neg h2]
  by_cases h3 : o < Config.iqqBase
  · rw [if_pos h3]
    exact .inr (.inr (.inl ⟨_, by omega, by omega, by omega, rfl⟩))
  rw [if_neg h3]
  by_cases h4 : o < Config.specBase
  · rw [if_pos h4]
    exact .inr (.inr (.inr (.inl ⟨_, by omega, by omega, by omega, rfl⟩)))
  rw [if_neg h4]
  by_cases h5 : o < Config.classBase
  · rw [if_pos h5]
    by_cases h : (o - Config.specBase) % 8 < 4
    · rw [if_pos h]
      exact .inr (.inr (.inr (.inr (.inl ⟨_, by omega, by omega, by omega, rfl⟩))))
    · rw [if_neg h]
      exact .inr (.inr (.inr (.inr (.inr (.inl ⟨_, by omega, by omega, by omega, rfl⟩)))))
  rw [if_neg h5]
  by_cases h6 : o < Config.bufferEnd
  · rw [if_pos h6]
    exact .inr (.inr (.inr (.inr (.inr (.inr (.inl ⟨_, by omega, by omega, by omega, rfl⟩))))))
  · rw [if_neg h6]
    exact .inr (.inr (.inr (.inr (.inr (.inr (.inr ⟨.inr (by omega), rfl⟩))))))

/-- A target in the word buffer has an index within capacity. -/
theorem word_lt_of_targetAt {o n : Nat} (h : targetAt o = .word n) : n < 65536 := by
  rcases targetAt_cases o with ⟨r, -, e⟩ | ⟨m, hm, -, -, e⟩ | ⟨m, -, -, -, e⟩ | ⟨m, -, -, -, e⟩ | ⟨m, -, -, -, e⟩ |
    ⟨m, -, -, -, e⟩ | ⟨m, -, -, -, e⟩ | ⟨-, e⟩
  case inr.inl => cases e.symm.trans h; exact hm
  all_goals cases e.symm.trans h

/-- The aperture offset of the address the platform routes to an offset is that offset: `SAB_BASE` is not decoded. -/
theorem apertureOffset_systemAddr {o : Nat} (h : o < 2 ^ 21) : apertureOffset (systemAddr o) = o := by
  simp only [apertureOffset, systemAddr, BitVec.toNat_append, BitVec.toNat_ofNat, Nat.mod_eq_of_lt h]
  rw [← Nat.shiftLeft_add_eq_or_of_lt h, Nat.shiftLeft_eq]
  omega

/-- An offset inside the aperture, written as an address, decodes to itself. -/
theorem apertureOffset_ofNat {o : Nat} (h : o < 2 ^ 21) : apertureOffset (BitVec.ofNat 32 o) = o := by
  simp only [apertureOffset, BitVec.toNat_ofNat]
  omega

end Sys2Proof.Machine
end

