-- ==== Sys2Proof/Laws/Memory.lean ====
section
/-!
SUPPORT. The laws of the buffers' memory: what a byte, a word and a 64-bit value read as after a store, inside it and
outside it, and that every memory operation keeps the canonical form.
-/
namespace Sys2Proof.Machine

/-! ## Byte order -/

@[simp] theorem length_wordBytes (w : Word) : (wordBytes w).length = 4 := rfl

@[simp] theorem length_dwordBytes (d : DWord) : (dwordBytes d).length = 8 := rfl

/-- The four bytes of a word put together again are the word. -/
theorem bytes_append_eq (w : Word) :
    w.extractLsb' 24 8 ++ w.extractLsb' 16 8 ++ w.extractLsb' 8 8 ++ w.extractLsb' 0 8 = w := by
  apply BitVec.eq_of_getLsbD_eq
  intro i hi
  simp only [BitVec.getLsbD_append, BitVec.getLsbD_extractLsb']
  split
  · next h => simp [h]
  · split
    · next h1 h2 => simp [show i - 8 < 8 by omega, show 8 + (i - 8) = i by omega]
    · split
      · next h1 h2 h3 => simp [show i - 8 - 8 < 8 by omega, show 16 + (i - 8 - 8) = i by omega]
      · next h1 h2 h3 => simp [show i - 8 - 8 - 8 < 8 by omega, show 24 + (i - 8 - 8 - 8) = i by omega]

/-- The two halves of a 64-bit value put together again are the value. -/
theorem halves_append_eq (d : DWord) : hiHalf d ++ loHalf d = d := by
  apply BitVec.eq_of_getLsbD_eq
  intro i hi
  simp only [hiHalf, loHalf, BitVec.getLsbD_append, BitVec.getLsbD_extractLsb']
  split
  · next h => simp [h]
  · simp [show i - 32 < 32 by omega, show 32 + (i - 32) = i by omega]

@[simp] theorem loHalf_append (hi lo : Word) : loHalf (hi ++ lo) = lo := by
  apply BitVec.eq_of_getLsbD_eq
  intro i h
  rw [loHalf, BitVec.getLsbD_extractLsb', Nat.zero_add, BitVec.getLsbD_append]
  simp [h]

@[simp] theorem hiHalf_append (hi lo : Word) : hiHalf (hi ++ lo) = hi := by
  apply BitVec.eq_of_getLsbD_eq
  intro i h
  rw [hiHalf, BitVec.getLsbD_extractLsb', BitVec.getLsbD_append]
  simp [h]

@[simp] theorem loHalf_setLo (d : DWord) (v : Word) : loHalf (setLo d v) = v := by simp [setLo]

@[simp] theorem hiHalf_setLo (d : DWord) (v : Word) : hiHalf (setLo d v) = hiHalf d := by simp [setLo]

@[simp] theorem loHalf_setHi (d : DWord) (v : Word) : loHalf (setHi d v) = loHalf d := by simp [setHi]

@[simp] theorem hiHalf_setHi (d : DWord) (v : Word) : hiHalf (setHi d v) = v := by simp [setHi]

/-! ## Looking bytes up -/

/-- A lookup among bytes placed at consecutive addresses. -/
theorem lookup_cellsAt (a x : Nat) (bs : List Byte) :
    (cellsAt a bs).lookup x = if a ≤ x then bs[x - a]? else none := by
  induction bs generalizing a with
  | nil => simp [cellsAt]
  | cons b bs ih =>
    by_cases hx : x = a
    · subst hx; simp [cellsAt]
    · rw [cellsAt, List.lookup_cons, show (x == a) = false by simpa using hx, ih]
      by_cases h : a + 1 ≤ x
      · rw [if_pos h, if_pos (by omega), show x - a = (x - (a + 1)) + 1 by omega, List.getElem?_cons_succ]
      · rw [if_neg h, if_neg (by omega)]

/-- A lookup in the entries whose addresses satisfy a test. -/
theorem lookup_filter (p : Nat → Bool) (x : Nat) (cs : List Host.Cell) :
    (cs.filter fun c => p c.1).lookup x = if p x then cs.lookup x else none := by
  induction cs with
  | nil => simp
  | cons c cs ih =>
    obtain ⟨a, b⟩ := c
    by_cases hx : x = a
    · subst hx
      by_cases hp : p x
      · simp [hp]
      · simp [hp, ih]
    · have hxa : (x == a) = false := by simpa using hx
      by_cases hp : p a
      · simp [hp, List.lookup_cons, hxa, ih]
      · simp [hp, List.lookup_cons, hxa, ih]

/-- A lookup after a store: the stored byte inside the store, the old entry outside it. -/
theorem lookup_writeBytes (m : Memory) (a x : Nat) (bs : List Byte) :
    (m.writeBytes a bs).cells.lookup x =
      if a ≤ x ∧ x < a + bs.length then bs[x - a]? else m.cells.lookup x := by
  simp only [Memory.writeBytes, List.append_assoc, List.lookup_append,
    lookup_filter (fun y => decide (y < a)), lookup_filter (fun y => decide (a + bs.length ≤ y)),
    lookup_cellsAt, decide_eq_true_eq]
  by_cases h1 : x < a
  · rw [if_pos h1, if_neg (by omega), if_neg (by omega), if_neg (by omega)]
    cases m.cells.lookup x <;> rfl
  · by_cases h2 : x < a + bs.length
    · rw [if_neg h1, if_pos (by omega), if_neg (by omega), if_pos (by omega)]
      cases bs[x - a]? <;> rfl
    · rw [if_neg h1, if_pos (by omega), if_pos (by omega), if_neg (by omega),
        List.getElem?_eq_none (by omega)]
      rfl

/-! ## Reading after a store -/

@[simp] theorem Memory.writeBytes_baseGen (m : Memory) (a : Nat) (bs : List Byte) :
    (m.writeBytes a bs).baseGen = m.baseGen := rfl

@[simp] theorem Memory.writeBytes_resultGen (m : Memory) (a : Nat) (bs : List Byte) :
    (m.writeBytes a bs).resultGen = m.resultGen := rfl

@[simp] theorem Memory.writeBytes_unlisted (m : Memory) (a x : Nat) (bs : List Byte) :
    (m.writeBytes a bs).unlisted x = m.unlisted x := rfl

/-- A byte inside a store reads as the byte stored. -/
theorem Memory.readByte_writeBytes_inside (m : Memory) {a i : Nat} {bs : List Byte} (h : i < bs.length) :
    (m.writeBytes a bs).readByte (a + i) = bs[i] := by
  simp [Memory.readByte, lookup_writeBytes, h]

/-- A byte outside a store reads as before. -/
theorem Memory.readByte_writeBytes_outside (m : Memory) {a x : Nat} {bs : List Byte}
    (h : x < a ∨ a + bs.length ≤ x) : (m.writeBytes a bs).readByte x = m.readByte x := by
  simp [Memory.readByte, lookup_writeBytes, show ¬(a ≤ x ∧ x < a + bs.length) by omega]

/-- A word outside a store reads as before. -/
theorem Memory.readWord_writeBytes_outside (m : Memory) {a x : Nat} {bs : List Byte}
    (h : x + 4 ≤ a ∨ a + bs.length ≤ x) : (m.writeBytes a bs).readWord x = m.readWord x := by
  simp only [Memory.readWord]
  rw [readByte_writeBytes_outside m (by omega), readByte_writeBytes_outside m (by omega),
    readByte_writeBytes_outside m (by omega), readByte_writeBytes_outside m (by omega)]

/-- A word stored inside a longer store reads back, whatever stands around it. -/
theorem Memory.readWord_writeBytes_inside (m : Memory) (a : Nat) (pre post : List Byte) (w : Word) :
    (m.writeBytes a (pre ++ wordBytes w ++ post)).readWord (a + pre.length) = w := by
  have byte (j : Nat) (hj : j < 4) :
      (m.writeBytes a (pre ++ wordBytes w ++ post)).readByte (a + pre.length + j) = (wordBytes w)[j]'hj := by
    rw [Nat.add_assoc, readByte_writeBytes_inside m (i := pre.length + j) (by simp; omega)]
    rw [List.getElem_append_left (by simp; omega), List.getElem_append_right (by omega)]
    simp only [Nat.add_sub_cancel_left]
    rfl
  rw [Memory.readWord, byte 3 (by omega), byte 2 (by omega), byte 1 (by omega),
    show (m.writeBytes a (pre ++ wordBytes w ++ post)).readByte (a + pre.length) = (wordBytes w)[0] from byte 0 (by omega)]
  exact bytes_append_eq w

theorem length_flatMap_wordBytes (ws : List Word) : (ws.flatMap wordBytes).length = 4 * ws.length := by
  induction ws with
  | nil => rfl
  | cons w ws ih => simp [ih]; omega

theorem length_flatMap_dwordBytes (ds : List DWord) : (ds.flatMap dwordBytes).length = 8 * ds.length := by
  induction ds with
  | nil => rfl
  | cons d ds ih => simp [ih]; omega

/-- Element `n` of consecutive words stored reads back. -/
theorem Memory.readWord_writeWords_inside (m : Memory) (a : Nat) {ws : List Word} {n : Nat} (h : n < ws.length) :
    (m.writeWords a ws).readWord (a + 4 * n) = ws[n] := by
  have split : ws = ws.take n ++ ws[n] :: ws.drop (n + 1) := by simp
  have key := readWord_writeBytes_inside m a ((ws.take n).flatMap wordBytes) ((ws.drop (n + 1)).flatMap wordBytes) ws[n]
  rw [length_flatMap_wordBytes, List.length_take, Nat.min_eq_left (by omega)] at key
  have hb : ws.flatMap wordBytes =
      (ws.take n).flatMap wordBytes ++ wordBytes ws[n] ++ (ws.drop (n + 1)).flatMap wordBytes :=
    (congrArg (List.flatMap wordBytes) split).trans
      (by simp only [List.flatMap_append, List.flatMap_cons, List.append_assoc])
  rw [Memory.writeWords, hb]
  exact key

/-- A word outside consecutive words stored reads as before. -/
theorem Memory.readWord_writeWords_outside (m : Memory) {a x : Nat} {ws : List Word}
    (h : x + 4 ≤ a ∨ a + 4 * ws.length ≤ x) : (m.writeWords a ws).readWord x = m.readWord x :=
  readWord_writeBytes_outside m (by rw [length_flatMap_wordBytes]; exact h)

/-- A byte outside consecutive words stored reads as before. -/
theorem Memory.readByte_writeWords_outside (m : Memory) {a x : Nat} {ws : List Word}
    (h : x < a ∨ a + 4 * ws.length ≤ x) : (m.writeWords a ws).readByte x = m.readByte x :=
  readByte_writeBytes_outside m (by rw [length_flatMap_wordBytes]; exact h)

/-- The two halves of element `k` of consecutive 64-bit values stored read back. -/
theorem Memory.readWord_writeDWords_inside (m : Memory) (a : Nat) {ds : List DWord} {k : Nat} (h : k < ds.length) :
    (m.writeDWords a ds).readWord (a + 8 * k) = loHalf ds[k] ∧
      (m.writeDWords a ds).readWord (a + 8 * k + 4) = hiHalf ds[k] := by
  have split : ds = ds.take k ++ ds[k] :: ds.drop (k + 1) := by simp
  have lo := readWord_writeBytes_inside m a ((ds.take k).flatMap dwordBytes)
    (wordBytes (hiHalf ds[k]) ++ (ds.drop (k + 1)).flatMap dwordBytes) (loHalf ds[k])
  have hi := readWord_writeBytes_inside m a ((ds.take k).flatMap dwordBytes ++ wordBytes (loHalf ds[k]))
    ((ds.drop (k + 1)).flatMap dwordBytes) (hiHalf ds[k])
  rw [length_flatMap_dwordBytes, List.length_take, Nat.min_eq_left (by omega)] at lo
  rw [List.length_append, length_flatMap_dwordBytes, List.length_take, Nat.min_eq_left (by omega), length_wordBytes,
    ← Nat.add_assoc] at hi
  have hb : ds.flatMap dwordBytes = (ds.take k).flatMap dwordBytes ++ wordBytes (loHalf ds[k]) ++
      (wordBytes (hiHalf ds[k]) ++ (ds.drop (k + 1)).flatMap dwordBytes) :=
    (congrArg (List.flatMap dwordBytes) split).trans
      (by simp only [List.flatMap_append, List.flatMap_cons, List.append_assoc, dwordBytes])
  rw [Memory.writeDWords, hb]
  exact ⟨lo, by simpa only [List.append_assoc] using hi⟩

/-- A word outside consecutive 64-bit values stored reads as before. -/
theorem Memory.readWord_writeDWords_outside (m : Memory) {a x : Nat} {ds : List DWord}
    (h : x + 4 ≤ a ∨ a + 8 * ds.length ≤ x) : (m.writeDWords a ds).readWord x = m.readWord x :=
  readWord_writeBytes_outside m (by rw [length_flatMap_dwordBytes]; exact h)

/-- A byte outside consecutive 64-bit values stored reads as before. -/
theorem Memory.readByte_writeDWords_outside (m : Memory) {a x : Nat} {ds : List DWord}
    (h : x < a ∨ a + 8 * ds.length ≤ x) : (m.writeDWords a ds).readByte x = m.readByte x :=
  readByte_writeBytes_outside m (by rw [length_flatMap_dwordBytes]; exact h)

/-- A stored word reads back. -/
@[simp] theorem Memory.readWord_writeWord_same (m : Memory) (a : Nat) (w : Word) : (m.writeWord a w).readWord a = w := by
  simpa [Memory.writeWord] using readWord_writeBytes_inside m a [] [] w

/-- A stored word leaves every other word alone. -/
theorem Memory.readWord_writeWord_outside (m : Memory) {a x : Nat} (w : Word) (h : x + 4 ≤ a ∨ a + 4 ≤ x) :
    (m.writeWord a w).readWord x = m.readWord x := readWord_writeBytes_outside m h

@[simp] theorem Memory.length_readWords (m : Memory) (a count : Nat) : (m.readWords a count).length = count := by
  simp [Memory.readWords]

@[simp] theorem Memory.getElem_readWords (m : Memory) (a count n : Nat) (h : n < (m.readWords a count).length) :
    (m.readWords a count)[n] = m.readWord (a + 4 * n) := by simp [Memory.readWords]

/-- Forgetting the results keeps every byte of `WORD`, `IQI` and `IQQ`. -/
theorem Memory.readByte_forgetResults (m : Memory) (gen : Nat) {x : Nat} (h : x < Config.specBase) :
    (m.forgetResults gen).readByte x = m.readByte x := by
  simp only [Memory.readByte, Memory.forgetResults, Memory.unlisted,
    lookup_filter (fun y => decide (y < Config.specBase)), decide_eq_true_eq, if_pos h]

/-- Forgetting the results keeps every word of `WORD`, `IQI` and `IQQ`. -/
theorem Memory.readWord_forgetResults (m : Memory) (gen : Nat) {x : Nat} (h : x + 4 ≤ Config.specBase) :
    (m.forgetResults gen).readWord x = m.readWord x := by
  simp only [Memory.readWord]
  rw [readByte_forgetResults m gen (by omega), readByte_forgetResults m gen (by omega),
    readByte_forgetResults m gen (by omega), readByte_forgetResults m gen (by omega)]

/-- After forgetting the results, every byte of `SPEC` and `CLASS` is a free value of the new generation. -/
theorem Memory.readByte_forgetResults_open (m : Memory) (gen : Nat) {x : Nat} (h : Config.specBase ≤ x) :
    (m.forgetResults gen).readByte x = Config.freeByte gen x := by
  simp only [Memory.readByte, Memory.forgetResults, Memory.unlisted,
    lookup_filter (fun y => decide (y < Config.specBase)), decide_eq_true_eq,
    if_neg (show ¬ x < Config.specBase by omega)]

/-! ## The canonical form -/

theorem risingFrom_mono {lo lo' : Nat} (hlo : lo' ≤ lo) {cs : List Host.Cell} (h : risingFrom lo cs = true) :
    risingFrom lo' cs = true := by
  cases cs with
  | nil => rfl
  | cons c cs =>
    simp only [risingFrom, Bool.and_eq_true, decide_eq_true_eq] at h ⊢
    exact ⟨by omega, h.2⟩

theorem risingFrom_filter (p : Host.Cell → Bool) {lo : Nat} {cs : List Host.Cell} (h : risingFrom lo cs = true) :
    risingFrom lo (cs.filter p) = true := by
  induction cs generalizing lo with
  | nil => rfl
  | cons c cs ih =>
    simp only [risingFrom, Bool.and_eq_true, decide_eq_true_eq] at h
    by_cases hp : p c
    · simp only [List.filter_cons_of_pos hp, risingFrom, Bool.and_eq_true, decide_eq_true_eq]
      exact ⟨h.1, ih h.2⟩
    · rw [List.filter_cons_of_neg hp]
      exact risingFrom_mono (by omega) (ih h.2)

/-- Entries below `mid` followed by entries from `mid` on. -/
theorem risingFrom_append {lo mid : Nat} {xs ys : List Host.Cell} (hx : risingFrom lo xs = true)
    (hlo : lo ≤ mid) (hb : ∀ c ∈ xs, c.1 < mid) (hy : risingFrom mid ys = true) :
    risingFrom lo (xs ++ ys) = true := by
  induction xs generalizing lo with
  | nil => exact risingFrom_mono hlo hy
  | cons c cs ih =>
    simp only [risingFrom, Bool.and_eq_true, decide_eq_true_eq, List.cons_append] at hx ⊢
    exact ⟨hx.1, ih hx.2 (hb c (by simp)) fun d hd => hb d (by simp [hd])⟩

/-- Consecutive bytes, followed by entries above them. -/
theorem risingFrom_cellsAt_append (a : Nat) (bs : List Byte) {ys : List Host.Cell}
    (hy : risingFrom (a + bs.length) ys = true) : risingFrom a (cellsAt a bs ++ ys) = true := by
  induction bs generalizing a with
  | nil => simpa [cellsAt] using hy
  | cons b bs ih =>
    simp only [cellsAt, List.cons_append, risingFrom, Bool.and_eq_true, decide_eq_true_eq]
    refine ⟨Nat.le_refl a, ih (a + 1) ?_⟩
    rw [List.length_cons] at hy
    rwa [show a + 1 + bs.length = a + (bs.length + 1) by omega]

theorem risingFrom_filter_ge {lo : Nat} (b : Nat) {cs : List Host.Cell} (h : risingFrom lo cs = true) :
    risingFrom b (cs.filter fun c => decide (b ≤ c.1)) = true := by
  induction cs generalizing lo with
  | nil => rfl
  | cons c cs ih =>
    simp only [risingFrom, Bool.and_eq_true, decide_eq_true_eq] at h
    by_cases hc : b ≤ c.1
    · simp only [List.filter_cons, hc, decide_true, if_true, risingFrom, Bool.and_eq_true, true_and]
      exact risingFrom_filter _ h.2
    · simp only [List.filter_cons, hc, decide_false]
      exact ih h.2

theorem mem_cellsAt {a : Nat} {bs : List Byte} {c : Host.Cell} (h : c ∈ cellsAt a bs) :
    a ≤ c.1 ∧ c.1 < a + bs.length := by
  induction bs generalizing a with
  | nil => simp [cellsAt] at h
  | cons b bs ih =>
    rcases List.mem_cons.1 h with rfl | h
    · simp
    · have := ih h
      rw [List.length_cons]
      omega

/-- A store inside the buffer windows keeps the canonical form. -/
theorem Memory.wf_writeBytes {m : Memory} (h : m.wf = true) {a : Nat} {bs : List Byte} (ha : Config.wordBase ≤ a)
    (hb : a + bs.length ≤ Config.bufferEnd) : (m.writeBytes a bs).wf = true := by
  simp only [Memory.wf, Bool.and_eq_true, List.all_eq_true, decide_eq_true_eq] at h ⊢
  refine ⟨?_, fun c hc => ?_⟩
  · simp only [Memory.writeBytes, List.append_assoc]
    refine risingFrom_append (mid := a) (risingFrom_filter _ h.1) ha (fun c hc => ?_)
      (risingFrom_cellsAt_append a bs (risingFrom_filter_ge _ h.1))
    simpa using (List.mem_filter.1 hc).2
  · simp only [Memory.writeBytes, List.append_assoc, List.mem_append, List.mem_filter] at hc
    rcases hc with hc | hc | hc
    · exact h.2 c hc.1
    · have := (mem_cellsAt hc).2
      omega
    · exact h.2 c hc.1

/-- Storing words inside the buffer windows keeps the canonical form. -/
theorem Memory.wf_writeWords {m : Memory} (h : m.wf = true) {a : Nat} {ws : List Word} (ha : Config.wordBase ≤ a)
    (hb : a + 4 * ws.length ≤ Config.bufferEnd) : (m.writeWords a ws).wf = true :=
  wf_writeBytes h ha (by rw [length_flatMap_wordBytes]; exact hb)

/-- Storing one word inside the buffer windows keeps the canonical form. -/
theorem Memory.wf_writeWord {m : Memory} (h : m.wf = true) {a : Nat} (w : Word) (ha : Config.wordBase ≤ a)
    (hb : a + 4 ≤ Config.bufferEnd) : (m.writeWord a w).wf = true := wf_writeBytes h ha hb

/-- Storing 64-bit values inside the buffer windows keeps the canonical form. -/
theorem Memory.wf_writeDWords {m : Memory} (h : m.wf = true) {a : Nat} {ds : List DWord} (ha : Config.wordBase ≤ a)
    (hb : a + 8 * ds.length ≤ Config.bufferEnd) : (m.writeDWords a ds).wf = true :=
  wf_writeBytes h ha (by rw [length_flatMap_dwordBytes]; exact hb)

/-- Forgetting the results keeps the canonical form. -/
theorem Memory.wf_forgetResults {m : Memory} (h : m.wf = true) (gen : Nat) : (m.forgetResults gen).wf = true := by
  simp only [Memory.wf, Memory.forgetResults, Bool.and_eq_true, List.all_eq_true, decide_eq_true_eq] at h ⊢
  exact ⟨risingFrom_filter _ h.1, fun c hc => h.2 c (List.mem_filter.1 hc).1⟩

/-- Memory with nothing listed is in canonical form. -/
theorem Memory.wf_empty (b r : Nat) : (Memory.mk [] b r).wf = true := rfl

end Sys2Proof.Machine
end

