-- ==== Sys2Proof/Laws/State.lean ====
section
/-!
SUPPORT. One lemma per field of the state and per update: what each field is after it. All are true by definition and
are simp lemmas, so that no proof unfolds a record update.
-/
namespace Sys2Proof.Machine.State

variable (s : State)

/-! ## `complete`: completion (60_exceptions.md R191) -/

@[simp] theorem complete_done (e : ErrCode) : (s.complete e).done = true := rfl
@[simp] theorem complete_frameBad (e : ErrCode) : (s.complete e).frameBad = s.frameBad := rfl
@[simp] theorem complete_overrun (e : ErrCode) : (s.complete e).overrun = s.overrun := rfl
@[simp] theorem complete_toneValid (e : ErrCode) : (s.complete e).toneValid = s.toneValid := rfl
@[simp] theorem complete_err (e : ErrCode) : (s.complete e).err = e := rfl
@[simp] theorem complete_base (e : ErrCode) : (s.complete e).base = s.base := rfl
@[simp] theorem complete_endAddr (e : ErrCode) : (s.complete e).endAddr = s.endAddr := rfl
@[simp] theorem complete_len (e : ErrCode) : (s.complete e).len = s.len := rfl
@[simp] theorem complete_layout (e : ErrCode) : (s.complete e).layout = s.layout := rfl
@[simp] theorem complete_nsamp (e : ErrCode) : (s.complete e).nsamp = s.nsamp := rfl
@[simp] theorem complete_sampleWidth (e : ErrCode) : (s.complete e).sampleWidth = s.sampleWidth := rfl
@[simp] theorem complete_lineAddr (e : ErrCode) : (s.complete e).lineAddr = s.lineAddr := rfl
@[simp] theorem complete_lineW0 (e : ErrCode) : (s.complete e).lineW0 = s.lineW0 := rfl
@[simp] theorem complete_lineW1 (e : ErrCode) : (s.complete e).lineW1 = s.lineW1 := rfl
@[simp] theorem complete_lineW2 (e : ErrCode) : (s.complete e).lineW2 = s.lineW2 := rfl
@[simp] theorem complete_lineW3 (e : ErrCode) : (s.complete e).lineW3 = s.lineW3 := rfl
@[simp] theorem complete_fs (e : ErrCode) : (s.complete e).fs = s.fs := rfl
@[simp] theorem complete_cf (e : ErrCode) : (s.complete e).cf = s.cf := rfl
@[simp] theorem complete_bw (e : ErrCode) : (s.complete e).bw = s.bw := rfl
@[simp] theorem complete_th (e : ErrCode) : (s.complete e).th = s.th := rfl
@[simp] theorem complete_sigDb (e : ErrCode) : (s.complete e).sigDb = s.sigDb := rfl
@[simp] theorem complete_dcDb (e : ErrCode) : (s.complete e).dcDb = s.dcDb := rfl
@[simp] theorem complete_toneDb (e : ErrCode) : (s.complete e).toneDb = s.toneDb := rfl
@[simp] theorem complete_nband (e : ErrCode) : (s.complete e).nband = s.nband := rfl
@[simp] theorem complete_ntone (e : ErrCode) : (s.complete e).ntone = s.ntone := rfl
@[simp] theorem complete_nspec (e : ErrCode) : (s.complete e).nspec = s.nspec := rfl
@[simp] theorem complete_seq (e : ErrCode) : (s.complete e).seq = .idle := rfl
@[simp] theorem complete_mem (e : ErrCode) : (s.complete e).mem = s.mem := rfl
@[simp] theorem complete_lastAnalysis (e : ErrCode) : (s.complete e).lastAnalysis = s.lastAnalysis := rfl
@[simp] theorem complete_draws (e : ErrCode) : (s.complete e).draws = s.draws := rfl
@[simp] theorem complete_rdata (e : ErrCode) : (s.complete e).rdata = s.rdata := rfl
@[simp] theorem complete_inputs (e : ErrCode) : (s.complete e).inputs = s.inputs := rfl

/-! ## `completeAnalysis`: completion of an analysis (60_exceptions.md R191, log 18) -/

@[simp] theorem completeAnalysis_done (e : ErrCode) : (s.completeAnalysis e).done = true := rfl
@[simp] theorem completeAnalysis_frameBad (e : ErrCode) : (s.completeAnalysis e).frameBad = s.frameBad := rfl
@[simp] theorem completeAnalysis_overrun (e : ErrCode) : (s.completeAnalysis e).overrun = s.overrun := rfl
@[simp] theorem completeAnalysis_toneValid (e : ErrCode) : (s.completeAnalysis e).toneValid = s.toneValid := rfl
@[simp] theorem completeAnalysis_err (e : ErrCode) : (s.completeAnalysis e).err = e := rfl
@[simp] theorem completeAnalysis_base (e : ErrCode) : (s.completeAnalysis e).base = s.base := rfl
@[simp] theorem completeAnalysis_endAddr (e : ErrCode) : (s.completeAnalysis e).endAddr = s.endAddr := rfl
@[simp] theorem completeAnalysis_len (e : ErrCode) : (s.completeAnalysis e).len = s.len := rfl
@[simp] theorem completeAnalysis_layout (e : ErrCode) : (s.completeAnalysis e).layout = s.layout := rfl
@[simp] theorem completeAnalysis_nsamp (e : ErrCode) : (s.completeAnalysis e).nsamp = s.nsamp := rfl
@[simp] theorem completeAnalysis_sampleWidth (e : ErrCode) : (s.completeAnalysis e).sampleWidth = s.sampleWidth := rfl
@[simp] theorem completeAnalysis_lineAddr (e : ErrCode) : (s.completeAnalysis e).lineAddr = s.lineAddr := rfl
@[simp] theorem completeAnalysis_lineW0 (e : ErrCode) : (s.completeAnalysis e).lineW0 = s.lineW0 := rfl
@[simp] theorem completeAnalysis_lineW1 (e : ErrCode) : (s.completeAnalysis e).lineW1 = s.lineW1 := rfl
@[simp] theorem completeAnalysis_lineW2 (e : ErrCode) : (s.completeAnalysis e).lineW2 = s.lineW2 := rfl
@[simp] theorem completeAnalysis_lineW3 (e : ErrCode) : (s.completeAnalysis e).lineW3 = s.lineW3 := rfl
@[simp] theorem completeAnalysis_fs (e : ErrCode) : (s.completeAnalysis e).fs = s.fs := rfl
@[simp] theorem completeAnalysis_cf (e : ErrCode) : (s.completeAnalysis e).cf = s.cf := rfl
@[simp] theorem completeAnalysis_bw (e : ErrCode) : (s.completeAnalysis e).bw = s.bw := rfl
@[simp] theorem completeAnalysis_th (e : ErrCode) : (s.completeAnalysis e).th = s.th := rfl
@[simp] theorem completeAnalysis_sigDb (e : ErrCode) : (s.completeAnalysis e).sigDb = s.sigDb := rfl
@[simp] theorem completeAnalysis_dcDb (e : ErrCode) : (s.completeAnalysis e).dcDb = s.dcDb := rfl
@[simp] theorem completeAnalysis_toneDb (e : ErrCode) : (s.completeAnalysis e).toneDb = s.toneDb := rfl
@[simp] theorem completeAnalysis_nband (e : ErrCode) : (s.completeAnalysis e).nband = s.nband := rfl
@[simp] theorem completeAnalysis_ntone (e : ErrCode) : (s.completeAnalysis e).ntone = s.ntone := rfl
@[simp] theorem completeAnalysis_nspec (e : ErrCode) : (s.completeAnalysis e).nspec = s.nspec := rfl
@[simp] theorem completeAnalysis_seq (e : ErrCode) : (s.completeAnalysis e).seq = .idle := rfl
@[simp] theorem completeAnalysis_mem (e : ErrCode) : (s.completeAnalysis e).mem = s.mem := rfl
@[simp] theorem completeAnalysis_lastAnalysis (e : ErrCode) : (s.completeAnalysis e).lastAnalysis = some e := rfl
@[simp] theorem completeAnalysis_draws (e : ErrCode) : (s.completeAnalysis e).draws = s.draws := rfl
@[simp] theorem completeAnalysis_rdata (e : ErrCode) : (s.completeAnalysis e).rdata = s.rdata := rfl
@[simp] theorem completeAnalysis_inputs (e : ErrCode) : (s.completeAnalysis e).inputs = s.inputs := rfl

/-! ## `startRun`: acceptance of a command (60_exceptions.md R190) -/

@[simp] theorem startRun_done (c : Word) : (s.startRun c).done = false := rfl
@[simp] theorem startRun_frameBad (c : Word) : (s.startRun c).frameBad = s.frameBad := rfl
@[simp] theorem startRun_overrun (c : Word) : (s.startRun c).overrun = s.overrun := rfl
@[simp] theorem startRun_toneValid (c : Word) : (s.startRun c).toneValid = s.toneValid := rfl
@[simp] theorem startRun_err (c : Word) : (s.startRun c).err = .ok := rfl
@[simp] theorem startRun_base (c : Word) : (s.startRun c).base = s.base := rfl
@[simp] theorem startRun_endAddr (c : Word) : (s.startRun c).endAddr = s.endAddr := rfl
@[simp] theorem startRun_len (c : Word) : (s.startRun c).len = s.len := rfl
@[simp] theorem startRun_layout (c : Word) : (s.startRun c).layout = s.layout := rfl
@[simp] theorem startRun_nsamp (c : Word) : (s.startRun c).nsamp = s.nsamp := rfl
@[simp] theorem startRun_sampleWidth (c : Word) : (s.startRun c).sampleWidth = s.sampleWidth := rfl
@[simp] theorem startRun_lineAddr (c : Word) : (s.startRun c).lineAddr = s.lineAddr := rfl
@[simp] theorem startRun_lineW0 (c : Word) : (s.startRun c).lineW0 = s.lineW0 := rfl
@[simp] theorem startRun_lineW1 (c : Word) : (s.startRun c).lineW1 = s.lineW1 := rfl
@[simp] theorem startRun_lineW2 (c : Word) : (s.startRun c).lineW2 = s.lineW2 := rfl
@[simp] theorem startRun_lineW3 (c : Word) : (s.startRun c).lineW3 = s.lineW3 := rfl
@[simp] theorem startRun_fs (c : Word) : (s.startRun c).fs = s.fs := rfl
@[simp] theorem startRun_cf (c : Word) : (s.startRun c).cf = s.cf := rfl
@[simp] theorem startRun_bw (c : Word) : (s.startRun c).bw = s.bw := rfl
@[simp] theorem startRun_th (c : Word) : (s.startRun c).th = s.th := rfl
@[simp] theorem startRun_sigDb (c : Word) : (s.startRun c).sigDb = s.sigDb := rfl
@[simp] theorem startRun_dcDb (c : Word) : (s.startRun c).dcDb = s.dcDb := rfl
@[simp] theorem startRun_toneDb (c : Word) : (s.startRun c).toneDb = s.toneDb := rfl
@[simp] theorem startRun_nband (c : Word) : (s.startRun c).nband = s.nband := rfl
@[simp] theorem startRun_ntone (c : Word) : (s.startRun c).ntone = s.ntone := rfl
@[simp] theorem startRun_nspec (c : Word) : (s.startRun c).nspec = s.nspec := rfl
@[simp] theorem startRun_seq (c : Word) :
    (s.startRun c).seq =
      .run { word := c, snap := s.snapshot, dropped := false } := rfl
@[simp] theorem startRun_mem (c : Word) : (s.startRun c).mem = s.mem := rfl
@[simp] theorem startRun_lastAnalysis (c : Word) : (s.startRun c).lastAnalysis = s.lastAnalysis := rfl
@[simp] theorem startRun_draws (c : Word) : (s.startRun c).draws = s.draws := rfl
@[simp] theorem startRun_rdata (c : Word) : (s.startRun c).rdata = s.rdata := rfl
@[simp] theorem startRun_inputs (c : Word) : (s.startRun c).inputs = s.inputs := rfl

/-! ## `dropCommand`: a dropped command (60_exceptions.md R190) -/

@[simp] theorem dropCommand_done (r : Run) : (s.dropCommand r).done = s.done := rfl
@[simp] theorem dropCommand_frameBad (r : Run) : (s.dropCommand r).frameBad = s.frameBad := rfl
@[simp] theorem dropCommand_overrun (r : Run) : (s.dropCommand r).overrun = true := rfl
@[simp] theorem dropCommand_toneValid (r : Run) : (s.dropCommand r).toneValid = s.toneValid := rfl
@[simp] theorem dropCommand_err (r : Run) : (s.dropCommand r).err = s.err := rfl
@[simp] theorem dropCommand_base (r : Run) : (s.dropCommand r).base = s.base := rfl
@[simp] theorem dropCommand_endAddr (r : Run) : (s.dropCommand r).endAddr = s.endAddr := rfl
@[simp] theorem dropCommand_len (r : Run) : (s.dropCommand r).len = s.len := rfl
@[simp] theorem dropCommand_layout (r : Run) : (s.dropCommand r).layout = s.layout := rfl
@[simp] theorem dropCommand_nsamp (r : Run) : (s.dropCommand r).nsamp = s.nsamp := rfl
@[simp] theorem dropCommand_sampleWidth (r : Run) : (s.dropCommand r).sampleWidth = s.sampleWidth := rfl
@[simp] theorem dropCommand_lineAddr (r : Run) : (s.dropCommand r).lineAddr = s.lineAddr := rfl
@[simp] theorem dropCommand_lineW0 (r : Run) : (s.dropCommand r).lineW0 = s.lineW0 := rfl
@[simp] theorem dropCommand_lineW1 (r : Run) : (s.dropCommand r).lineW1 = s.lineW1 := rfl
@[simp] theorem dropCommand_lineW2 (r : Run) : (s.dropCommand r).lineW2 = s.lineW2 := rfl
@[simp] theorem dropCommand_lineW3 (r : Run) : (s.dropCommand r).lineW3 = s.lineW3 := rfl
@[simp] theorem dropCommand_fs (r : Run) : (s.dropCommand r).fs = s.fs := rfl
@[simp] theorem dropCommand_cf (r : Run) : (s.dropCommand r).cf = s.cf := rfl
@[simp] theorem dropCommand_bw (r : Run) : (s.dropCommand r).bw = s.bw := rfl
@[simp] theorem dropCommand_th (r : Run) : (s.dropCommand r).th = s.th := rfl
@[simp] theorem dropCommand_sigDb (r : Run) : (s.dropCommand r).sigDb = s.sigDb := rfl
@[simp] theorem dropCommand_dcDb (r : Run) : (s.dropCommand r).dcDb = s.dcDb := rfl
@[simp] theorem dropCommand_toneDb (r : Run) : (s.dropCommand r).toneDb = s.toneDb := rfl
@[simp] theorem dropCommand_nband (r : Run) : (s.dropCommand r).nband = s.nband := rfl
@[simp] theorem dropCommand_ntone (r : Run) : (s.dropCommand r).ntone = s.ntone := rfl
@[simp] theorem dropCommand_nspec (r : Run) : (s.dropCommand r).nspec = s.nspec := rfl
@[simp] theorem dropCommand_seq (r : Run) : (s.dropCommand r).seq = .run { r with dropped := true } := rfl
@[simp] theorem dropCommand_mem (r : Run) : (s.dropCommand r).mem = s.mem := rfl
@[simp] theorem dropCommand_lastAnalysis (r : Run) : (s.dropCommand r).lastAnalysis = s.lastAnalysis := rfl
@[simp] theorem dropCommand_draws (r : Run) : (s.dropCommand r).draws = s.draws := rfl
@[simp] theorem dropCommand_rdata (r : Run) : (s.dropCommand r).rdata = s.rdata := rfl
@[simp] theorem dropCommand_inputs (r : Run) : (s.dropCommand r).inputs = s.inputs := rfl

/-! ## `fetching`: acceptance of a command that runs next (log 3) -/

@[simp] theorem fetching_done (c : Word) : (s.fetching c).done = false := rfl
@[simp] theorem fetching_frameBad (c : Word) : (s.fetching c).frameBad = s.frameBad := rfl
@[simp] theorem fetching_overrun (c : Word) : (s.fetching c).overrun = s.overrun := rfl
@[simp] theorem fetching_toneValid (c : Word) : (s.fetching c).toneValid = s.toneValid := rfl
@[simp] theorem fetching_err (c : Word) : (s.fetching c).err = .ok := rfl
@[simp] theorem fetching_base (c : Word) : (s.fetching c).base = s.base := rfl
@[simp] theorem fetching_endAddr (c : Word) : (s.fetching c).endAddr = s.endAddr := rfl
@[simp] theorem fetching_len (c : Word) : (s.fetching c).len = s.len := rfl
@[simp] theorem fetching_layout (c : Word) : (s.fetching c).layout = s.layout := rfl
@[simp] theorem fetching_nsamp (c : Word) : (s.fetching c).nsamp = s.nsamp := rfl
@[simp] theorem fetching_sampleWidth (c : Word) : (s.fetching c).sampleWidth = s.sampleWidth := rfl
@[simp] theorem fetching_lineAddr (c : Word) : (s.fetching c).lineAddr = s.lineAddr := rfl
@[simp] theorem fetching_lineW0 (c : Word) : (s.fetching c).lineW0 = s.lineW0 := rfl
@[simp] theorem fetching_lineW1 (c : Word) : (s.fetching c).lineW1 = s.lineW1 := rfl
@[simp] theorem fetching_lineW2 (c : Word) : (s.fetching c).lineW2 = s.lineW2 := rfl
@[simp] theorem fetching_lineW3 (c : Word) : (s.fetching c).lineW3 = s.lineW3 := rfl
@[simp] theorem fetching_fs (c : Word) : (s.fetching c).fs = s.fs := rfl
@[simp] theorem fetching_cf (c : Word) : (s.fetching c).cf = s.cf := rfl
@[simp] theorem fetching_bw (c : Word) : (s.fetching c).bw = s.bw := rfl
@[simp] theorem fetching_th (c : Word) : (s.fetching c).th = s.th := rfl
@[simp] theorem fetching_sigDb (c : Word) : (s.fetching c).sigDb = s.sigDb := rfl
@[simp] theorem fetching_dcDb (c : Word) : (s.fetching c).dcDb = s.dcDb := rfl
@[simp] theorem fetching_toneDb (c : Word) : (s.fetching c).toneDb = s.toneDb := rfl
@[simp] theorem fetching_nband (c : Word) : (s.fetching c).nband = s.nband := rfl
@[simp] theorem fetching_ntone (c : Word) : (s.fetching c).ntone = s.ntone := rfl
@[simp] theorem fetching_nspec (c : Word) : (s.fetching c).nspec = s.nspec := rfl
@[simp] theorem fetching_seq (c : Word) :
    (s.fetching c).seq =
      .run { word := c, snap := s.snapshot, dropped := false } := rfl
@[simp] theorem fetching_mem (c : Word) : (s.fetching c).mem = s.mem := rfl
@[simp] theorem fetching_lastAnalysis (c : Word) : (s.fetching c).lastAnalysis = s.lastAnalysis := rfl
@[simp] theorem fetching_draws (c : Word) : (s.fetching c).draws = s.draws := rfl
@[simp] theorem fetching_rdata (c : Word) : (s.fetching c).rdata = s.rdata := rfl
@[simp] theorem fetching_inputs (c : Word) : (s.fetching c).inputs = .turn :: s.inputs := rfl

/-! ## `markFrameBad`: a failed frame (40_frame.md R108) -/

@[simp] theorem markFrameBad_done : s.markFrameBad.done = s.done := rfl
@[simp] theorem markFrameBad_frameBad : s.markFrameBad.frameBad = true := rfl
@[simp] theorem markFrameBad_overrun : s.markFrameBad.overrun = s.overrun := rfl
@[simp] theorem markFrameBad_toneValid : s.markFrameBad.toneValid = s.toneValid := rfl
@[simp] theorem markFrameBad_err : s.markFrameBad.err = s.err := rfl
@[simp] theorem markFrameBad_base : s.markFrameBad.base = s.base := rfl
@[simp] theorem markFrameBad_endAddr : s.markFrameBad.endAddr = s.endAddr := rfl
@[simp] theorem markFrameBad_len : s.markFrameBad.len = s.len := rfl
@[simp] theorem markFrameBad_layout : s.markFrameBad.layout = s.layout := rfl
@[simp] theorem markFrameBad_nsamp : s.markFrameBad.nsamp = s.nsamp := rfl
@[simp] theorem markFrameBad_sampleWidth : s.markFrameBad.sampleWidth = s.sampleWidth := rfl
@[simp] theorem markFrameBad_lineAddr : s.markFrameBad.lineAddr = s.lineAddr := rfl
@[simp] theorem markFrameBad_lineW0 : s.markFrameBad.lineW0 = s.lineW0 := rfl
@[simp] theorem markFrameBad_lineW1 : s.markFrameBad.lineW1 = s.lineW1 := rfl
@[simp] theorem markFrameBad_lineW2 : s.markFrameBad.lineW2 = s.lineW2 := rfl
@[simp] theorem markFrameBad_lineW3 : s.markFrameBad.lineW3 = s.lineW3 := rfl
@[simp] theorem markFrameBad_fs : s.markFrameBad.fs = s.fs := rfl
@[simp] theorem markFrameBad_cf : s.markFrameBad.cf = s.cf := rfl
@[simp] theorem markFrameBad_bw : s.markFrameBad.bw = s.bw := rfl
@[simp] theorem markFrameBad_th : s.markFrameBad.th = s.th := rfl
@[simp] theorem markFrameBad_sigDb : s.markFrameBad.sigDb = s.sigDb := rfl
@[simp] theorem markFrameBad_dcDb : s.markFrameBad.dcDb = s.dcDb := rfl
@[simp] theorem markFrameBad_toneDb : s.markFrameBad.toneDb = s.toneDb := rfl
@[simp] theorem markFrameBad_nband : s.markFrameBad.nband = s.nband := rfl
@[simp] theorem markFrameBad_ntone : s.markFrameBad.ntone = s.ntone := rfl
@[simp] theorem markFrameBad_nspec : s.markFrameBad.nspec = s.nspec := rfl
@[simp] theorem markFrameBad_seq : s.markFrameBad.seq = s.seq := rfl
@[simp] theorem markFrameBad_mem : s.markFrameBad.mem = s.mem := rfl
@[simp] theorem markFrameBad_lastAnalysis : s.markFrameBad.lastAnalysis = s.lastAnalysis := rfl
@[simp] theorem markFrameBad_draws : s.markFrameBad.draws = s.draws := rfl
@[simp] theorem markFrameBad_rdata : s.markFrameBad.rdata = s.rdata := rfl
@[simp] theorem markFrameBad_inputs : s.markFrameBad.inputs = s.inputs := rfl

/-! ## `clearFrame`: a cleared frame (40_frame.md R102) -/

@[simp] theorem clearFrame_done : s.clearFrame.done = s.done := rfl
@[simp] theorem clearFrame_frameBad : s.clearFrame.frameBad = false := rfl
@[simp] theorem clearFrame_overrun : s.clearFrame.overrun = s.droppedInRun := rfl
@[simp] theorem clearFrame_toneValid : s.clearFrame.toneValid = s.toneValid := rfl
@[simp] theorem clearFrame_err : s.clearFrame.err = s.err := rfl
@[simp] theorem clearFrame_base : s.clearFrame.base = s.base := rfl
@[simp] theorem clearFrame_endAddr : s.clearFrame.endAddr = s.endAddr := rfl
@[simp] theorem clearFrame_len : s.clearFrame.len = 0#17 := rfl
@[simp] theorem clearFrame_layout : s.clearFrame.layout = s.layout := rfl
@[simp] theorem clearFrame_nsamp : s.clearFrame.nsamp = 0#17 := rfl
@[simp] theorem clearFrame_sampleWidth : s.clearFrame.sampleWidth = s.sampleWidth := rfl
@[simp] theorem clearFrame_lineAddr : s.clearFrame.lineAddr = s.lineAddr := rfl
@[simp] theorem clearFrame_lineW0 : s.clearFrame.lineW0 = s.lineW0 := rfl
@[simp] theorem clearFrame_lineW1 : s.clearFrame.lineW1 = s.lineW1 := rfl
@[simp] theorem clearFrame_lineW2 : s.clearFrame.lineW2 = s.lineW2 := rfl
@[simp] theorem clearFrame_lineW3 : s.clearFrame.lineW3 = s.lineW3 := rfl
@[simp] theorem clearFrame_fs : s.clearFrame.fs = s.fs := rfl
@[simp] theorem clearFrame_cf : s.clearFrame.cf = s.cf := rfl
@[simp] theorem clearFrame_bw : s.clearFrame.bw = s.bw := rfl
@[simp] theorem clearFrame_th : s.clearFrame.th = s.th := rfl
@[simp] theorem clearFrame_sigDb : s.clearFrame.sigDb = s.sigDb := rfl
@[simp] theorem clearFrame_dcDb : s.clearFrame.dcDb = s.dcDb := rfl
@[simp] theorem clearFrame_toneDb : s.clearFrame.toneDb = s.toneDb := rfl
@[simp] theorem clearFrame_nband : s.clearFrame.nband = s.nband := rfl
@[simp] theorem clearFrame_ntone : s.clearFrame.ntone = s.ntone := rfl
@[simp] theorem clearFrame_nspec : s.clearFrame.nspec = s.nspec := rfl
@[simp] theorem clearFrame_seq : s.clearFrame.seq = s.seq := rfl
@[simp] theorem clearFrame_mem : s.clearFrame.mem = s.mem := rfl
@[simp] theorem clearFrame_lastAnalysis : s.clearFrame.lastAnalysis = s.lastAnalysis := rfl
@[simp] theorem clearFrame_draws : s.clearFrame.draws = s.draws := rfl
@[simp] theorem clearFrame_rdata : s.clearFrame.rdata = s.rdata := rfl
@[simp] theorem clearFrame_inputs : s.clearFrame.inputs = s.inputs := rfl

/-! ## `appendLine`: an appended line (40_frame.md R109) -/

@[simp] theorem appendLine_done (S : Snapshot) : (s.appendLine S).done = s.done := rfl
@[simp] theorem appendLine_frameBad (S : Snapshot) : (s.appendLine S).frameBad = s.frameBad := rfl
@[simp] theorem appendLine_overrun (S : Snapshot) : (s.appendLine S).overrun = s.overrun := rfl
@[simp] theorem appendLine_toneValid (S : Snapshot) : (s.appendLine S).toneValid = s.toneValid := rfl
@[simp] theorem appendLine_err (S : Snapshot) : (s.appendLine S).err = s.err := rfl
@[simp] theorem appendLine_base (S : Snapshot) : (s.appendLine S).base = s.base := rfl
@[simp] theorem appendLine_endAddr (S : Snapshot) : (s.appendLine S).endAddr = s.endAddr := rfl
@[simp] theorem appendLine_len (S : Snapshot) : (s.appendLine S).len = S.len + 4#17 := rfl
@[simp] theorem appendLine_layout (S : Snapshot) : (s.appendLine S).layout = s.layout := rfl
@[simp] theorem appendLine_nsamp (S : Snapshot) : (s.appendLine S).nsamp = s.nsamp := rfl
@[simp] theorem appendLine_sampleWidth (S : Snapshot) : (s.appendLine S).sampleWidth = s.sampleWidth := rfl
@[simp] theorem appendLine_lineAddr (S : Snapshot) : (s.appendLine S).lineAddr = s.lineAddr := rfl
@[simp] theorem appendLine_lineW0 (S : Snapshot) : (s.appendLine S).lineW0 = s.lineW0 := rfl
@[simp] theorem appendLine_lineW1 (S : Snapshot) : (s.appendLine S).lineW1 = s.lineW1 := rfl
@[simp] theorem appendLine_lineW2 (S : Snapshot) : (s.appendLine S).lineW2 = s.lineW2 := rfl
@[simp] theorem appendLine_lineW3 (S : Snapshot) : (s.appendLine S).lineW3 = s.lineW3 := rfl
@[simp] theorem appendLine_fs (S : Snapshot) : (s.appendLine S).fs = s.fs := rfl
@[simp] theorem appendLine_cf (S : Snapshot) : (s.appendLine S).cf = s.cf := rfl
@[simp] theorem appendLine_bw (S : Snapshot) : (s.appendLine S).bw = s.bw := rfl
@[simp] theorem appendLine_th (S : Snapshot) : (s.appendLine S).th = s.th := rfl
@[simp] theorem appendLine_sigDb (S : Snapshot) : (s.appendLine S).sigDb = s.sigDb := rfl
@[simp] theorem appendLine_dcDb (S : Snapshot) : (s.appendLine S).dcDb = s.dcDb := rfl
@[simp] theorem appendLine_toneDb (S : Snapshot) : (s.appendLine S).toneDb = s.toneDb := rfl
@[simp] theorem appendLine_nband (S : Snapshot) : (s.appendLine S).nband = s.nband := rfl
@[simp] theorem appendLine_ntone (S : Snapshot) : (s.appendLine S).ntone = s.ntone := rfl
@[simp] theorem appendLine_nspec (S : Snapshot) : (s.appendLine S).nspec = s.nspec := rfl
@[simp] theorem appendLine_seq (S : Snapshot) : (s.appendLine S).seq = s.seq := rfl
@[simp] theorem appendLine_mem (S : Snapshot) :
    (s.appendLine S).mem =
      s.mem.writeWords (wordAddr S.len.toNat) S.lineWords := rfl
@[simp] theorem appendLine_lastAnalysis (S : Snapshot) : (s.appendLine S).lastAnalysis = s.lastAnalysis := rfl
@[simp] theorem appendLine_draws (S : Snapshot) : (s.appendLine S).draws = s.draws := rfl
@[simp] theorem appendLine_rdata (S : Snapshot) : (s.appendLine S).rdata = s.rdata := rfl
@[simp] theorem appendLine_inputs (S : Snapshot) : (s.appendLine S).inputs = s.inputs := rfl

/-! ## `rotateWords`: a rotated frame (40_frame.md R114) -/

@[simp] theorem rotateWords_done (L k : Nat) : (s.rotateWords L k).done = s.done := rfl
@[simp] theorem rotateWords_frameBad (L k : Nat) : (s.rotateWords L k).frameBad = s.frameBad := rfl
@[simp] theorem rotateWords_overrun (L k : Nat) : (s.rotateWords L k).overrun = s.overrun := rfl
@[simp] theorem rotateWords_toneValid (L k : Nat) : (s.rotateWords L k).toneValid = s.toneValid := rfl
@[simp] theorem rotateWords_err (L k : Nat) : (s.rotateWords L k).err = s.err := rfl
@[simp] theorem rotateWords_base (L k : Nat) : (s.rotateWords L k).base = s.base := rfl
@[simp] theorem rotateWords_endAddr (L k : Nat) : (s.rotateWords L k).endAddr = s.endAddr := rfl
@[simp] theorem rotateWords_len (L k : Nat) : (s.rotateWords L k).len = s.len := rfl
@[simp] theorem rotateWords_layout (L k : Nat) : (s.rotateWords L k).layout = s.layout := rfl
@[simp] theorem rotateWords_nsamp (L k : Nat) : (s.rotateWords L k).nsamp = s.nsamp := rfl
@[simp] theorem rotateWords_sampleWidth (L k : Nat) : (s.rotateWords L k).sampleWidth = s.sampleWidth := rfl
@[simp] theorem rotateWords_lineAddr (L k : Nat) : (s.rotateWords L k).lineAddr = s.lineAddr := rfl
@[simp] theorem rotateWords_lineW0 (L k : Nat) : (s.rotateWords L k).lineW0 = s.lineW0 := rfl
@[simp] theorem rotateWords_lineW1 (L k : Nat) : (s.rotateWords L k).lineW1 = s.lineW1 := rfl
@[simp] theorem rotateWords_lineW2 (L k : Nat) : (s.rotateWords L k).lineW2 = s.lineW2 := rfl
@[simp] theorem rotateWords_lineW3 (L k : Nat) : (s.rotateWords L k).lineW3 = s.lineW3 := rfl
@[simp] theorem rotateWords_fs (L k : Nat) : (s.rotateWords L k).fs = s.fs := rfl
@[simp] theorem rotateWords_cf (L k : Nat) : (s.rotateWords L k).cf = s.cf := rfl
@[simp] theorem rotateWords_bw (L k : Nat) : (s.rotateWords L k).bw = s.bw := rfl
@[simp] theorem rotateWords_th (L k : Nat) : (s.rotateWords L k).th = s.th := rfl
@[simp] theorem rotateWords_sigDb (L k : Nat) : (s.rotateWords L k).sigDb = s.sigDb := rfl
@[simp] theorem rotateWords_dcDb (L k : Nat) : (s.rotateWords L k).dcDb = s.dcDb := rfl
@[simp] theorem rotateWords_toneDb (L k : Nat) : (s.rotateWords L k).toneDb = s.toneDb := rfl
@[simp] theorem rotateWords_nband (L k : Nat) : (s.rotateWords L k).nband = s.nband := rfl
@[simp] theorem rotateWords_ntone (L k : Nat) : (s.rotateWords L k).ntone = s.ntone := rfl
@[simp] theorem rotateWords_nspec (L k : Nat) : (s.rotateWords L k).nspec = s.nspec := rfl
@[simp] theorem rotateWords_seq (L k : Nat) : (s.rotateWords L k).seq = s.seq := rfl
@[simp] theorem rotateWords_mem (L k : Nat) :
    (s.rotateWords L k).mem =
      s.mem.writeWords (wordAddr 0) (rotateFrame (s.mem.readWords (wordAddr 0) L) k) := rfl
@[simp] theorem rotateWords_lastAnalysis (L k : Nat) : (s.rotateWords L k).lastAnalysis = s.lastAnalysis := rfl
@[simp] theorem rotateWords_draws (L k : Nat) : (s.rotateWords L k).draws = s.draws := rfl
@[simp] theorem rotateWords_rdata (L k : Nat) : (s.rotateWords L k).rdata = s.rdata := rfl
@[simp] theorem rotateWords_inputs (L k : Nat) : (s.rotateWords L k).inputs = s.inputs := rfl

/-! ## `unpackWords`: unpacked samples (41_unpack.md R130) -/

@[simp] theorem unpackWords_done (S : Snapshot) : (s.unpackWords S).done = s.done := rfl
@[simp] theorem unpackWords_frameBad (S : Snapshot) : (s.unpackWords S).frameBad = s.frameBad := rfl
@[simp] theorem unpackWords_overrun (S : Snapshot) : (s.unpackWords S).overrun = s.overrun := rfl
@[simp] theorem unpackWords_toneValid (S : Snapshot) : (s.unpackWords S).toneValid = s.toneValid := rfl
@[simp] theorem unpackWords_err (S : Snapshot) : (s.unpackWords S).err = s.err := rfl
@[simp] theorem unpackWords_base (S : Snapshot) : (s.unpackWords S).base = s.base := rfl
@[simp] theorem unpackWords_endAddr (S : Snapshot) : (s.unpackWords S).endAddr = s.endAddr := rfl
@[simp] theorem unpackWords_len (S : Snapshot) : (s.unpackWords S).len = s.len := rfl
@[simp] theorem unpackWords_layout (S : Snapshot) : (s.unpackWords S).layout = s.layout := rfl
@[simp] theorem unpackWords_nsamp (S : Snapshot) : (s.unpackWords S).nsamp = S.len := rfl
@[simp] theorem unpackWords_sampleWidth (S : Snapshot) :
    (s.unpackWords S).sampleWidth =
      BitVec.ofNat 5 (layoutWidth (layoutOf S.layout)) := rfl
@[simp] theorem unpackWords_lineAddr (S : Snapshot) : (s.unpackWords S).lineAddr = s.lineAddr := rfl
@[simp] theorem unpackWords_lineW0 (S : Snapshot) : (s.unpackWords S).lineW0 = s.lineW0 := rfl
@[simp] theorem unpackWords_lineW1 (S : Snapshot) : (s.unpackWords S).lineW1 = s.lineW1 := rfl
@[simp] theorem unpackWords_lineW2 (S : Snapshot) : (s.unpackWords S).lineW2 = s.lineW2 := rfl
@[simp] theorem unpackWords_lineW3 (S : Snapshot) : (s.unpackWords S).lineW3 = s.lineW3 := rfl
@[simp] theorem unpackWords_fs (S : Snapshot) : (s.unpackWords S).fs = s.fs := rfl
@[simp] theorem unpackWords_cf (S : Snapshot) : (s.unpackWords S).cf = s.cf := rfl
@[simp] theorem unpackWords_bw (S : Snapshot) : (s.unpackWords S).bw = s.bw := rfl
@[simp] theorem unpackWords_th (S : Snapshot) : (s.unpackWords S).th = s.th := rfl
@[simp] theorem unpackWords_sigDb (S : Snapshot) : (s.unpackWords S).sigDb = s.sigDb := rfl
@[simp] theorem unpackWords_dcDb (S : Snapshot) : (s.unpackWords S).dcDb = s.dcDb := rfl
@[simp] theorem unpackWords_toneDb (S : Snapshot) : (s.unpackWords S).toneDb = s.toneDb := rfl
@[simp] theorem unpackWords_nband (S : Snapshot) : (s.unpackWords S).nband = s.nband := rfl
@[simp] theorem unpackWords_ntone (S : Snapshot) : (s.unpackWords S).ntone = s.ntone := rfl
@[simp] theorem unpackWords_nspec (S : Snapshot) : (s.unpackWords S).nspec = s.nspec := rfl
@[simp] theorem unpackWords_seq (S : Snapshot) : (s.unpackWords S).seq = s.seq := rfl
@[simp] theorem unpackWords_mem (S : Snapshot) :
    (s.unpackWords S).mem =
      (s.mem.writeWords (iqiAddr 0)
        ((s.mem.readWords (wordAddr 0) S.len.toNat).map (unpackI (layoutOf S.layout)))).writeWords (iqqAddr 0)
        ((s.mem.readWords (wordAddr 0) S.len.toNat).map (unpackQ (layoutOf S.layout))) := rfl
@[simp] theorem unpackWords_lastAnalysis (S : Snapshot) : (s.unpackWords S).lastAnalysis = s.lastAnalysis := rfl
@[simp] theorem unpackWords_draws (S : Snapshot) : (s.unpackWords S).draws = s.draws := rfl
@[simp] theorem unpackWords_rdata (S : Snapshot) : (s.unpackWords S).rdata = s.rdata := rfl
@[simp] theorem unpackWords_inputs (S : Snapshot) : (s.unpackWords S).inputs = s.inputs := rfl

/-! ## `forgetResults`: UNSPECIFIED results (42_analyze.md R171) -/

@[simp] theorem forgetResults_done : s.forgetResults.done = s.done := rfl
@[simp] theorem forgetResults_frameBad : s.forgetResults.frameBad = s.frameBad := rfl
@[simp] theorem forgetResults_overrun : s.forgetResults.overrun = s.overrun := rfl
@[simp] theorem forgetResults_toneValid :
    s.forgetResults.toneValid =
      (Config.freeBits (s.draws + 6) 1).getLsbD 0 := rfl
@[simp] theorem forgetResults_err : s.forgetResults.err = s.err := rfl
@[simp] theorem forgetResults_base : s.forgetResults.base = s.base := rfl
@[simp] theorem forgetResults_endAddr : s.forgetResults.endAddr = s.endAddr := rfl
@[simp] theorem forgetResults_len : s.forgetResults.len = s.len := rfl
@[simp] theorem forgetResults_layout : s.forgetResults.layout = s.layout := rfl
@[simp] theorem forgetResults_nsamp : s.forgetResults.nsamp = s.nsamp := rfl
@[simp] theorem forgetResults_sampleWidth : s.forgetResults.sampleWidth = s.sampleWidth := rfl
@[simp] theorem forgetResults_lineAddr : s.forgetResults.lineAddr = s.lineAddr := rfl
@[simp] theorem forgetResults_lineW0 : s.forgetResults.lineW0 = s.lineW0 := rfl
@[simp] theorem forgetResults_lineW1 : s.forgetResults.lineW1 = s.lineW1 := rfl
@[simp] theorem forgetResults_lineW2 : s.forgetResults.lineW2 = s.lineW2 := rfl
@[simp] theorem forgetResults_lineW3 : s.forgetResults.lineW3 = s.lineW3 := rfl
@[simp] theorem forgetResults_fs : s.forgetResults.fs = s.fs := rfl
@[simp] theorem forgetResults_cf : s.forgetResults.cf = s.cf := rfl
@[simp] theorem forgetResults_bw : s.forgetResults.bw = s.bw := rfl
@[simp] theorem forgetResults_th : s.forgetResults.th = s.th := rfl
@[simp] theorem forgetResults_sigDb : s.forgetResults.sigDb = Config.freeBits s.draws 64 := rfl
@[simp] theorem forgetResults_dcDb : s.forgetResults.dcDb = Config.freeBits (s.draws + 1) 64 := rfl
@[simp] theorem forgetResults_toneDb : s.forgetResults.toneDb = Config.freeBits (s.draws + 2) 64 := rfl
@[simp] theorem forgetResults_nband : s.forgetResults.nband = Config.freeBits (s.draws + 3) 32 := rfl
@[simp] theorem forgetResults_ntone : s.forgetResults.ntone = Config.freeBits (s.draws + 4) 32 := rfl
@[simp] theorem forgetResults_nspec : s.forgetResults.nspec = Config.freeBits (s.draws + 5) 17 := rfl
@[simp] theorem forgetResults_seq : s.forgetResults.seq = s.seq := rfl
@[simp] theorem forgetResults_mem : s.forgetResults.mem = s.mem.forgetResults s.draws := rfl
@[simp] theorem forgetResults_lastAnalysis : s.forgetResults.lastAnalysis = s.lastAnalysis := rfl
@[simp] theorem forgetResults_draws : s.forgetResults.draws = s.draws + 7 := rfl
@[simp] theorem forgetResults_rdata : s.forgetResults.rdata = s.rdata := rfl
@[simp] theorem forgetResults_inputs : s.forgetResults.inputs = s.inputs := rfl

/-! ## `writeResults`: the results of an analysis (42_analyze.md R170) -/

@[simp] theorem writeResults_done (inp : AnalyzeInput) (o : AnalyzeOutcome) :
    (s.writeResults inp o).done =
      s.done := rfl
@[simp] theorem writeResults_frameBad (inp : AnalyzeInput) (o : AnalyzeOutcome) :
    (s.writeResults inp o).frameBad =
      s.frameBad := rfl
@[simp] theorem writeResults_overrun (inp : AnalyzeInput) (o : AnalyzeOutcome) :
    (s.writeResults inp o).overrun =
      s.overrun := rfl
@[simp] theorem writeResults_toneValid (inp : AnalyzeInput) (o : AnalyzeOutcome) :
    (s.writeResults inp o).toneValid =
      !(inp.tones o).isEmpty := rfl
@[simp] theorem writeResults_err (inp : AnalyzeInput) (o : AnalyzeOutcome) : (s.writeResults inp o).err = s.err := rfl
@[simp] theorem writeResults_base (inp : AnalyzeInput) (o : AnalyzeOutcome) :
    (s.writeResults inp o).base =
      s.base := rfl
@[simp] theorem writeResults_endAddr (inp : AnalyzeInput) (o : AnalyzeOutcome) :
    (s.writeResults inp o).endAddr =
      s.endAddr := rfl
@[simp] theorem writeResults_len (inp : AnalyzeInput) (o : AnalyzeOutcome) : (s.writeResults inp o).len = s.len := rfl
@[simp] theorem writeResults_layout (inp : AnalyzeInput) (o : AnalyzeOutcome) :
    (s.writeResults inp o).layout =
      s.layout := rfl
@[simp] theorem writeResults_nsamp (inp : AnalyzeInput) (o : AnalyzeOutcome) :
    (s.writeResults inp o).nsamp =
      s.nsamp := rfl
@[simp] theorem writeResults_sampleWidth (inp : AnalyzeInput) (o : AnalyzeOutcome) :
    (s.writeResults inp o).sampleWidth =
      s.sampleWidth := rfl
@[simp] theorem writeResults_lineAddr (inp : AnalyzeInput) (o : AnalyzeOutcome) :
    (s.writeResults inp o).lineAddr =
      s.lineAddr := rfl
@[simp] theorem writeResults_lineW0 (inp : AnalyzeInput) (o : AnalyzeOutcome) :
    (s.writeResults inp o).lineW0 =
      s.lineW0 := rfl
@[simp] theorem writeResults_lineW1 (inp : AnalyzeInput) (o : AnalyzeOutcome) :
    (s.writeResults inp o).lineW1 =
      s.lineW1 := rfl
@[simp] theorem writeResults_lineW2 (inp : AnalyzeInput) (o : AnalyzeOutcome) :
    (s.writeResults inp o).lineW2 =
      s.lineW2 := rfl
@[simp] theorem writeResults_lineW3 (inp : AnalyzeInput) (o : AnalyzeOutcome) :
    (s.writeResults inp o).lineW3 =
      s.lineW3 := rfl
@[simp] theorem writeResults_fs (inp : AnalyzeInput) (o : AnalyzeOutcome) : (s.writeResults inp o).fs = s.fs := rfl
@[simp] theorem writeResults_cf (inp : AnalyzeInput) (o : AnalyzeOutcome) : (s.writeResults inp o).cf = s.cf := rfl
@[simp] theorem writeResults_bw (inp : AnalyzeInput) (o : AnalyzeOutcome) : (s.writeResults inp o).bw = s.bw := rfl
@[simp] theorem writeResults_th (inp : AnalyzeInput) (o : AnalyzeOutcome) : (s.writeResults inp o).th = s.th := rfl
@[simp] theorem writeResults_sigDb (inp : AnalyzeInput) (o : AnalyzeOutcome) :
    (s.writeResults inp o).sigDb =
      o.sigDb := rfl
@[simp] theorem writeResults_dcDb (inp : AnalyzeInput) (o : AnalyzeOutcome) :
    (s.writeResults inp o).dcDb =
      o.dcDb := rfl
@[simp] theorem writeResults_toneDb (inp : AnalyzeInput) (o : AnalyzeOutcome) :
    (s.writeResults inp o).toneDb =
      if (inp.tones o).isEmpty then 0x0000000000000000#64 else o.toneDb := rfl
@[simp] theorem writeResults_nband (inp : AnalyzeInput) (o : AnalyzeOutcome) :
    (s.writeResults inp o).nband =
      BitVec.ofNat 32 inp.band.length := rfl
@[simp] theorem writeResults_ntone (inp : AnalyzeInput) (o : AnalyzeOutcome) :
    (s.writeResults inp o).ntone =
      BitVec.ofNat 32 (inp.tones o).length := rfl
@[simp] theorem writeResults_nspec (inp : AnalyzeInput) (o : AnalyzeOutcome) :
    (s.writeResults inp o).nspec =
      BitVec.ofNat 17 inp.length := rfl
@[simp] theorem writeResults_seq (inp : AnalyzeInput) (o : AnalyzeOutcome) : (s.writeResults inp o).seq = s.seq := rfl
@[simp] theorem writeResults_mem (inp : AnalyzeInput) (o : AnalyzeOutcome) :
    (s.writeResults inp o).mem =
      s.mem.writeSpectrum inp o := rfl
@[simp] theorem writeResults_lastAnalysis (inp : AnalyzeInput) (o : AnalyzeOutcome) :
    (s.writeResults inp o).lastAnalysis =
      s.lastAnalysis := rfl
@[simp] theorem writeResults_draws (inp : AnalyzeInput) (o : AnalyzeOutcome) :
    (s.writeResults inp o).draws =
      s.draws := rfl
@[simp] theorem writeResults_rdata (inp : AnalyzeInput) (o : AnalyzeOutcome) :
    (s.writeResults inp o).rdata =
      s.rdata := rfl
@[simp] theorem writeResults_inputs (inp : AnalyzeInput) (o : AnalyzeOutcome) :
    (s.writeResults inp o).inputs =
      s.inputs := rfl

/-! ## `returnData`: a read (20_memory.md R62) -/

@[simp] theorem returnData_done (v : Word) : (s.returnData v).done = s.done := rfl
@[simp] theorem returnData_frameBad (v : Word) : (s.returnData v).frameBad = s.frameBad := rfl
@[simp] theorem returnData_overrun (v : Word) : (s.returnData v).overrun = s.overrun := rfl
@[simp] theorem returnData_toneValid (v : Word) : (s.returnData v).toneValid = s.toneValid := rfl
@[simp] theorem returnData_err (v : Word) : (s.returnData v).err = s.err := rfl
@[simp] theorem returnData_base (v : Word) : (s.returnData v).base = s.base := rfl
@[simp] theorem returnData_endAddr (v : Word) : (s.returnData v).endAddr = s.endAddr := rfl
@[simp] theorem returnData_len (v : Word) : (s.returnData v).len = s.len := rfl
@[simp] theorem returnData_layout (v : Word) : (s.returnData v).layout = s.layout := rfl
@[simp] theorem returnData_nsamp (v : Word) : (s.returnData v).nsamp = s.nsamp := rfl
@[simp] theorem returnData_sampleWidth (v : Word) : (s.returnData v).sampleWidth = s.sampleWidth := rfl
@[simp] theorem returnData_lineAddr (v : Word) : (s.returnData v).lineAddr = s.lineAddr := rfl
@[simp] theorem returnData_lineW0 (v : Word) : (s.returnData v).lineW0 = s.lineW0 := rfl
@[simp] theorem returnData_lineW1 (v : Word) : (s.returnData v).lineW1 = s.lineW1 := rfl
@[simp] theorem returnData_lineW2 (v : Word) : (s.returnData v).lineW2 = s.lineW2 := rfl
@[simp] theorem returnData_lineW3 (v : Word) : (s.returnData v).lineW3 = s.lineW3 := rfl
@[simp] theorem returnData_fs (v : Word) : (s.returnData v).fs = s.fs := rfl
@[simp] theorem returnData_cf (v : Word) : (s.returnData v).cf = s.cf := rfl
@[simp] theorem returnData_bw (v : Word) : (s.returnData v).bw = s.bw := rfl
@[simp] theorem returnData_th (v : Word) : (s.returnData v).th = s.th := rfl
@[simp] theorem returnData_sigDb (v : Word) : (s.returnData v).sigDb = s.sigDb := rfl
@[simp] theorem returnData_dcDb (v : Word) : (s.returnData v).dcDb = s.dcDb := rfl
@[simp] theorem returnData_toneDb (v : Word) : (s.returnData v).toneDb = s.toneDb := rfl
@[simp] theorem returnData_nband (v : Word) : (s.returnData v).nband = s.nband := rfl
@[simp] theorem returnData_ntone (v : Word) : (s.returnData v).ntone = s.ntone := rfl
@[simp] theorem returnData_nspec (v : Word) : (s.returnData v).nspec = s.nspec := rfl
@[simp] theorem returnData_seq (v : Word) : (s.returnData v).seq = s.seq := rfl
@[simp] theorem returnData_mem (v : Word) : (s.returnData v).mem = s.mem := rfl
@[simp] theorem returnData_lastAnalysis (v : Word) : (s.returnData v).lastAnalysis = s.lastAnalysis := rfl
@[simp] theorem returnData_draws (v : Word) : (s.returnData v).draws = s.draws := rfl
@[simp] theorem returnData_rdata (v : Word) : (s.returnData v).rdata = v := rfl
@[simp] theorem returnData_inputs (v : Word) : (s.returnData v).inputs = s.inputs := rfl

/-! ## `returnDrawn`: a read of an UNSPECIFIED value (20_memory.md R71) -/

@[simp] theorem returnDrawn_done (v : Word) : (s.returnDrawn v).done = s.done := rfl
@[simp] theorem returnDrawn_frameBad (v : Word) : (s.returnDrawn v).frameBad = s.frameBad := rfl
@[simp] theorem returnDrawn_overrun (v : Word) : (s.returnDrawn v).overrun = s.overrun := rfl
@[simp] theorem returnDrawn_toneValid (v : Word) : (s.returnDrawn v).toneValid = s.toneValid := rfl
@[simp] theorem returnDrawn_err (v : Word) : (s.returnDrawn v).err = s.err := rfl
@[simp] theorem returnDrawn_base (v : Word) : (s.returnDrawn v).base = s.base := rfl
@[simp] theorem returnDrawn_endAddr (v : Word) : (s.returnDrawn v).endAddr = s.endAddr := rfl
@[simp] theorem returnDrawn_len (v : Word) : (s.returnDrawn v).len = s.len := rfl
@[simp] theorem returnDrawn_layout (v : Word) : (s.returnDrawn v).layout = s.layout := rfl
@[simp] theorem returnDrawn_nsamp (v : Word) : (s.returnDrawn v).nsamp = s.nsamp := rfl
@[simp] theorem returnDrawn_sampleWidth (v : Word) : (s.returnDrawn v).sampleWidth = s.sampleWidth := rfl
@[simp] theorem returnDrawn_lineAddr (v : Word) : (s.returnDrawn v).lineAddr = s.lineAddr := rfl
@[simp] theorem returnDrawn_lineW0 (v : Word) : (s.returnDrawn v).lineW0 = s.lineW0 := rfl
@[simp] theorem returnDrawn_lineW1 (v : Word) : (s.returnDrawn v).lineW1 = s.lineW1 := rfl
@[simp] theorem returnDrawn_lineW2 (v : Word) : (s.returnDrawn v).lineW2 = s.lineW2 := rfl
@[simp] theorem returnDrawn_lineW3 (v : Word) : (s.returnDrawn v).lineW3 = s.lineW3 := rfl
@[simp] theorem returnDrawn_fs (v : Word) : (s.returnDrawn v).fs = s.fs := rfl
@[simp] theorem returnDrawn_cf (v : Word) : (s.returnDrawn v).cf = s.cf := rfl
@[simp] theorem returnDrawn_bw (v : Word) : (s.returnDrawn v).bw = s.bw := rfl
@[simp] theorem returnDrawn_th (v : Word) : (s.returnDrawn v).th = s.th := rfl
@[simp] theorem returnDrawn_sigDb (v : Word) : (s.returnDrawn v).sigDb = s.sigDb := rfl
@[simp] theorem returnDrawn_dcDb (v : Word) : (s.returnDrawn v).dcDb = s.dcDb := rfl
@[simp] theorem returnDrawn_toneDb (v : Word) : (s.returnDrawn v).toneDb = s.toneDb := rfl
@[simp] theorem returnDrawn_nband (v : Word) : (s.returnDrawn v).nband = s.nband := rfl
@[simp] theorem returnDrawn_ntone (v : Word) : (s.returnDrawn v).ntone = s.ntone := rfl
@[simp] theorem returnDrawn_nspec (v : Word) : (s.returnDrawn v).nspec = s.nspec := rfl
@[simp] theorem returnDrawn_seq (v : Word) : (s.returnDrawn v).seq = s.seq := rfl
@[simp] theorem returnDrawn_mem (v : Word) : (s.returnDrawn v).mem = s.mem := rfl
@[simp] theorem returnDrawn_lastAnalysis (v : Word) : (s.returnDrawn v).lastAnalysis = s.lastAnalysis := rfl
@[simp] theorem returnDrawn_draws (v : Word) : (s.returnDrawn v).draws = s.draws + 1 := rfl
@[simp] theorem returnDrawn_rdata (v : Word) : (s.returnDrawn v).rdata = v := rfl
@[simp] theorem returnDrawn_inputs (v : Word) : (s.returnDrawn v).inputs = s.inputs := rfl

/-! ## `stageLine`: a staged line (10_state.md R30) -/

@[simp] theorem stageLine_done (l : Line) : (s.stageLine l).done = s.done := rfl
@[simp] theorem stageLine_frameBad (l : Line) : (s.stageLine l).frameBad = s.frameBad := rfl
@[simp] theorem stageLine_overrun (l : Line) : (s.stageLine l).overrun = s.overrun := rfl
@[simp] theorem stageLine_toneValid (l : Line) : (s.stageLine l).toneValid = s.toneValid := rfl
@[simp] theorem stageLine_err (l : Line) : (s.stageLine l).err = s.err := rfl
@[simp] theorem stageLine_base (l : Line) : (s.stageLine l).base = s.base := rfl
@[simp] theorem stageLine_endAddr (l : Line) : (s.stageLine l).endAddr = s.endAddr := rfl
@[simp] theorem stageLine_len (l : Line) : (s.stageLine l).len = s.len := rfl
@[simp] theorem stageLine_layout (l : Line) : (s.stageLine l).layout = s.layout := rfl
@[simp] theorem stageLine_nsamp (l : Line) : (s.stageLine l).nsamp = s.nsamp := rfl
@[simp] theorem stageLine_sampleWidth (l : Line) : (s.stageLine l).sampleWidth = s.sampleWidth := rfl
@[simp] theorem stageLine_lineAddr (l : Line) : (s.stageLine l).lineAddr = l.addr := rfl
@[simp] theorem stageLine_lineW0 (l : Line) : (s.stageLine l).lineW0 = l.w0 := rfl
@[simp] theorem stageLine_lineW1 (l : Line) : (s.stageLine l).lineW1 = l.w1 := rfl
@[simp] theorem stageLine_lineW2 (l : Line) : (s.stageLine l).lineW2 = l.w2 := rfl
@[simp] theorem stageLine_lineW3 (l : Line) : (s.stageLine l).lineW3 = l.w3 := rfl
@[simp] theorem stageLine_fs (l : Line) : (s.stageLine l).fs = s.fs := rfl
@[simp] theorem stageLine_cf (l : Line) : (s.stageLine l).cf = s.cf := rfl
@[simp] theorem stageLine_bw (l : Line) : (s.stageLine l).bw = s.bw := rfl
@[simp] theorem stageLine_th (l : Line) : (s.stageLine l).th = s.th := rfl
@[simp] theorem stageLine_sigDb (l : Line) : (s.stageLine l).sigDb = s.sigDb := rfl
@[simp] theorem stageLine_dcDb (l : Line) : (s.stageLine l).dcDb = s.dcDb := rfl
@[simp] theorem stageLine_toneDb (l : Line) : (s.stageLine l).toneDb = s.toneDb := rfl
@[simp] theorem stageLine_nband (l : Line) : (s.stageLine l).nband = s.nband := rfl
@[simp] theorem stageLine_ntone (l : Line) : (s.stageLine l).ntone = s.ntone := rfl
@[simp] theorem stageLine_nspec (l : Line) : (s.stageLine l).nspec = s.nspec := rfl
@[simp] theorem stageLine_seq (l : Line) : (s.stageLine l).seq = s.seq := rfl
@[simp] theorem stageLine_mem (l : Line) : (s.stageLine l).mem = s.mem := rfl
@[simp] theorem stageLine_lastAnalysis (l : Line) : (s.stageLine l).lastAnalysis = s.lastAnalysis := rfl
@[simp] theorem stageLine_draws (l : Line) : (s.stageLine l).draws = s.draws := rfl
@[simp] theorem stageLine_rdata (l : Line) : (s.stageLine l).rdata = s.rdata := rfl
@[simp] theorem stageLine_inputs (l : Line) : (s.stageLine l).inputs = s.inputs := rfl

end Sys2Proof.Machine.State
end

