-- ==== Sys2Proof/Laws/Exec.lean ====
section
/-!
SUPPORT. What each meaning can answer, said once: every case of its checks with the state it gives. Provers cite these
instead of unfolding a meaning.
-/
namespace Sys2Proof.Machine

/-- The operands of a running command are its snapshot. -/
theorem State.operands_run {s : State} {r : Run} (h : s.seq = .run r) : s.operands = r.snap := by
  simp [State.operands, h]

/-- With no command running, the operands are the live registers. -/
theorem State.operands_idle {s : State} (h : s.seq = .idle) : s.operands = s.snapshot := by
  simp [State.operands, h]

theorem State.droppedInRun_run {s : State} {r : Run} (h : s.seq = .run r) : s.droppedInRun = r.dropped := by
  simp [State.droppedInRun, h]

theorem State.issue_idle {s : State} (h : s.seq = .idle) (c : Word) : s.issue c = s.startRun c := by
  simp [State.issue, h]

theorem State.issue_run {s : State} {r : Run} (h : s.seq = .run r) (c : Word) : s.issue c = s.dropCommand r := by
  simp [State.issue, h]

/-- What `FRAME_PUSH` can answer. -/
theorem execFramePush_cases (s : State) :
    (s.operands.frameBad = true ∧ execFramePush s = .next (s.complete .noncontig)) ∨
      (s.operands.frameBad = false ∧ s.operands.lineOffset.toNat ≠ 4 * s.operands.len.toNat ∧
        execFramePush s = .next (s.markFrameBad.complete .noncontig)) ∨
      (s.operands.frameBad = false ∧ s.operands.lineOffset.toNat = 4 * s.operands.len.toNat ∧
        65536 < s.operands.len.toNat + 4 ∧ execFramePush s = .next (s.markFrameBad.complete .overflow)) ∨
      (s.operands.frameBad = false ∧ s.operands.lineOffset.toNat = 4 * s.operands.len.toNat ∧
        s.operands.len.toNat + 4 ≤ 65536 ∧
        execFramePush s = .next ((s.appendLine s.operands).complete .ok)) := by
  unfold execFramePush
  cases hb : s.operands.frameBad
  · by_cases ho : s.operands.lineOffset.toNat = 4 * s.operands.len.toNat
    · by_cases hc : 65536 < s.operands.len.toNat + 4
      · exact .inr (.inr (.inl ⟨rfl, ho, hc, by simp [hb, ho, Config.capacity, hc]⟩))
      · exact .inr (.inr (.inr ⟨rfl, ho, by omega, by simp [hb, ho, Config.capacity, hc]⟩))
    · exact .inr (.inl ⟨rfl, ho, by simp [hb, ho]⟩)
  · exact .inl ⟨rfl, by simp [hb]⟩

/-- What `REORDER` can answer. -/
theorem execReorder_cases (s : State) :
    (s.operands.frameBad = true ∧ execReorder s = .next (s.complete .noncontig)) ∨
      (s.operands.frameBad = false ∧ s.operands.endAddr = 0x80000000#32 ∧
        execReorder s = .next (s.complete .incomplete)) ∨
      (s.operands.frameBad = false ∧ s.operands.endAddr ≠ 0x80000000#32 ∧
        s.operands.len.toNat ≤ s.operands.endAddr.toNat ∧ execReorder s = .next (s.complete .range)) ∨
      (s.operands.frameBad = false ∧ s.operands.endAddr.toNat < s.operands.len.toNat ∧
        execReorder s =
          .next ((s.rotateWords s.operands.len.toNat s.operands.endAddr.toNat).complete .ok)) := by
  unfold execReorder
  cases hb : s.operands.frameBad
  · by_cases he : s.operands.endAddr = 0x80000000#32
    · exact .inr (.inl ⟨rfl, he, by simp [hb, Config.sentinel, he]⟩)
    · by_cases hr : s.operands.len.toNat ≤ s.operands.endAddr.toNat
      · exact .inr (.inr (.inl ⟨rfl, he, hr, by simp [hb, Config.sentinel, he, hr]⟩))
      · exact .inr (.inr (.inr ⟨rfl, by omega, by simp [hb, Config.sentinel, he, hr]⟩))
  · exact .inl ⟨rfl, by simp [hb]⟩

/-- What `UNPACK` can answer. -/
theorem execUnpack_cases (s : State) :
    (s.operands.frameBad = true ∧ execUnpack s = .next (s.complete .noncontig)) ∨
      (s.operands.frameBad = false ∧ layoutLegal (layoutOf s.operands.layout) = false ∧
        execUnpack s = .next (s.complete .format)) ∨
      (s.operands.frameBad = false ∧ layoutLegal (layoutOf s.operands.layout) = true ∧
        execUnpack s = .next ((s.unpackWords s.operands).complete .ok)) := by
  unfold execUnpack
  cases hb : s.operands.frameBad
  · cases hl : layoutLegal (layoutOf s.operands.layout)
    · exact .inr (.inl ⟨rfl, rfl, by simp [hb, hl]⟩)
    · exact .inr (.inr ⟨rfl, rfl, by simp [hb, hl]⟩)
  · exact .inl ⟨rfl, by simp [hb]⟩

/-- What `ANALYZE` can answer. -/
theorem execAnalyze_cases (s : State) :
    (s.operands.nsamp.toNat = 0 ∧ execAnalyze s = .next (s.completeAnalysis .empty)) ∨
      (s.operands.nsamp.toNat ≠ 0 ∧ s.operands.params = none ∧ execAnalyze s = .next (s.completeAnalysis .param)) ∨
      (∃ p, s.operands.nsamp.toNat ≠ 0 ∧ s.operands.params = some p ∧ (analyzeInput s.mem s.operands p).band = [] ∧
        execAnalyze s = .next (s.forgetResults.completeAnalysis .emptyBand)) ∨
      (∃ p, s.operands.nsamp.toNat ≠ 0 ∧ s.operands.params = some p ∧ (analyzeInput s.mem s.operands p).band ≠ [] ∧
        execAnalyze s = .next (s.finishAnalysis (analyzeInput s.mem s.operands p)
          (Config.numerics.outcome (analyzeInput s.mem s.operands p)))) := by
  unfold execAnalyze
  by_cases hn : s.operands.nsamp.toNat = 0
  · exact .inl ⟨hn, by simp [hn]⟩
  · cases hp : s.operands.params with
    | none => exact .inr (.inl ⟨hn, rfl, by simp [hn, hp]⟩)
    | some p =>
      by_cases hb : (analyzeInput s.mem s.operands p).band = []
      · exact .inr (.inr (.inl ⟨p, hn, rfl, hb, by simp [hn, hp, hb]⟩))
      · exact .inr (.inr (.inr ⟨p, hn, rfl, hb, by simp [hn, hp, hb]⟩))

/-- A finished analysis either stores its results or forgets them. -/
theorem State.finishAnalysis_cases (s : State) (inp : AnalyzeInput) (o : AnalyzeOutcome) :
    (o.logDomain = true ∧ s.finishAnalysis inp o = s.forgetResults.completeAnalysis .logDomain) ∨
      (o.logDomain = false ∧ s.finishAnalysis inp o = (s.writeResults inp o).completeAnalysis .ok) := by
  cases h : o.logDomain
  · exact .inr ⟨rfl, by simp [State.finishAnalysis, h]⟩
  · exact .inl ⟨rfl, by simp [State.finishAnalysis, h]⟩

/-- The number of samples an analysis takes. -/
@[simp] theorem analyzeInput_length (m : Memory) (S : Snapshot) (p : Params) :
    (analyzeInput m S p).length = S.nsamp.toNat := by
  simp [analyzeInput, AnalyzeInput.length, Memory.samples]

end Sys2Proof.Machine
end

