-- ==== Sys2Proof/Laws/Step.lean ====
section
/-!
SUPPORT. What a step can do, said once: which input it takes, what a host access changes, and which inputs are refused.
-/
namespace Sys2Proof.Machine

/-- With no input pending, a step is the sequencer's turn. -/
theorem step_no_input {s : State} (h : s.inputs = []) : step s = sequencerTurn s := by
  simp [step, h]

/-- With an input pending, a step handles it and takes it off the list. -/
theorem step_input {s : State} {e : Input} {rest : List Input} (h : s.inputs = e :: rest) :
    step s = handleInput e { s with inputs := rest } := by
  simp [step, h]

@[simp] theorem steps_zero (s : State) : steps 0 s = .next s := rfl

/-- A step that gives a next state leaves one step fewer to take. -/
theorem steps_succ {s t : State} (h : step s = .next t) (k : Nat) : steps (k + 1) s = steps k t := by
  simp [steps, h]

/-- The turn of an idle sequencer changes nothing. -/
theorem sequencerTurn_idle {s : State} (h : s.seq = .idle) : sequencerTurn s = .next s := by
  simp [sequencerTurn, h]

/-- The turn of a sequencer that holds a command word runs it. -/
theorem sequencerTurn_run {s : State} {r : Run} (h : s.seq = .run r) : sequencerTurn s = runCommand r.word s := by
  simp [sequencerTurn, h]

/-- A word that decodes is executed. -/
theorem runCommand_ok {c : Word} {i : Instr} (h : decode c = .ok i) (s : State) : runCommand c s = exec i s := by
  simp [runCommand, h]

/-- A word that does not decode completes with `BAD_CMD`. -/
theorem runCommand_error {c : Word} {e : DecodeError} (h : decode c = .error e) (s : State) :
    runCommand c s = .next (s.complete .badCmd) := by
  simp [runCommand, h, badCommand]

/-- A read changes only the returned value and the number of free values drawn. -/
theorem hostRead_frame (t : Target) (s : State) :
    ∃ v d, hostRead t s = { s with rdata := v, draws := d } := by
  unfold hostRead
  split
  · exact ⟨_, _, rfl⟩
  · split
    · exact ⟨_, _, rfl⟩
    · split <;> exact ⟨_, _, rfl⟩

/-- What a write of a target can answer. -/
theorem hostWrite_cases (t : Target) (v : Word) (s : State) :
    (∃ i S, s.runningCommand = some (i, S) ∧ writeHazard i t = true ∧
        hostWrite t v s = .refused .busyWriteHazard) ∨
      ((∀ i S, s.runningCommand = some (i, S) → writeHazard i t = false) ∧
        hostWrite t v s = .next (s.writeTarget t v)) := by
  unfold hostWrite
  cases hr : s.runningCommand with
  | none => exact .inr ⟨by simp, rfl⟩
  | some x =>
    obtain ⟨i, S⟩ := x
    cases hw : writeHazard i t
    · refine .inr ⟨?_, by simp [hw]⟩
      intro j T h
      cases h
      exact hw
    · exact .inl ⟨i, S, rfl, hw, by simp [hw]⟩

/-- What a well-formed or malformed access answers. -/
theorem hostAccess_read (addr : Word) (size : AccessSize) (s : State) :
    hostAccess (.read addr size) s =
      if (Access.read addr size).wf then .next (hostRead (targetAt (apertureOffset addr)) s)
      else .refused .malformedAccess := rfl

theorem hostAccess_write (addr : Word) (size : AccessSize) (v : Word) (s : State) :
    hostAccess (.write addr size v) s =
      if (Access.write addr size v).wf then hostWrite (targetAt (apertureOffset addr)) v s
      else .refused .malformedAccess := rfl

/-- The running command while idle. -/
theorem State.runningCommand_idle {s : State} (h : s.seq = .idle) : s.runningCommand = none := by
  simp [State.runningCommand, h]

/-- The running command while a word that decodes runs. -/
theorem State.runningCommand_run {s : State} {r : Run} {i : Instr} (h : s.seq = .run r) (hd : decode r.word = .ok i) :
    s.runningCommand = some (i, r.snap) := by
  simp [State.runningCommand, h, hd]

/-- A running command comes from a run and a word that decodes. -/
theorem State.runningCommand_eq_some {s : State} {i : Instr} {S : Snapshot} (h : s.runningCommand = some (i, S)) :
    ∃ r, s.seq = .run r ∧ decode r.word = .ok i ∧ S = r.snap := by
  unfold State.runningCommand at h
  split at h
  · cases h
  · next r hr =>
    split at h
    · next j hj =>
      cases h
      exact ⟨r, hr, hj, rfl⟩
    · cases h

/-- Every way a step can answer a next state. -/
theorem step_next_cases {s t : State} (h : step s = .next t) :
    (s.inputs = [] ∧ sequencerTurn s = .next t) ∨
      (∃ rest, s.inputs = .turn :: rest ∧ sequencerTurn { s with inputs := rest } = .next t) ∨
      (∃ rest, s.inputs = .reset :: rest ∧ t = State.hardReset { s with inputs := rest }) ∨
      (∃ rest addr size, s.inputs = .access (.read addr size) :: rest ∧ (Access.read addr size).wf = true ∧
        t = hostRead (targetAt (apertureOffset addr)) { s with inputs := rest }) ∨
      (∃ rest addr size v, s.inputs = .access (.write addr size v) :: rest ∧ (Access.write addr size v).wf = true ∧
        (∀ i S, s.runningCommand = some (i, S) → writeHazard i (targetAt (apertureOffset addr)) = false) ∧
        t = State.writeTarget { s with inputs := rest } (targetAt (apertureOffset addr)) v) := by
  cases hi : s.inputs with
  | nil => exact .inl ⟨rfl, by rwa [step_no_input hi] at h⟩
  | cons e rest =>
    rw [step_input hi] at h
    cases e with
    | turn => exact .inr (.inl ⟨rest, rfl, h⟩)
    | reset =>
      simp only [handleInput, Host.Outcome.next.injEq] at h
      exact .inr (.inr (.inl ⟨rest, rfl, h.symm⟩))
    | otherMaster => simp [handleInput] at h
    | access a =>
      cases a with
      | read addr size =>
        rw [handleInput, hostAccess_read] at h
        split at h
        · next hw => cases h; exact .inr (.inr (.inr (.inl ⟨rest, addr, size, rfl, hw, rfl⟩)))
        · cases h
      | write addr size v =>
        rw [handleInput, hostAccess_write] at h
        split at h
        · next hw =>
          rcases hostWrite_cases (targetAt (apertureOffset addr)) v { s with inputs := rest } with
            ⟨_, _, _, _, e⟩ | ⟨hz, e⟩
          · rw [e] at h; cases h
          · rw [e] at h
            cases h
            exact .inr (.inr (.inr (.inr ⟨rest, addr, size, v, rfl, hw, hz, rfl⟩)))
        · cases h

end Sys2Proof.Machine
end

