-- ==== Sys2Proof/Laws/Host.lean ====
section
/-!
SUPPORT. The host notation of Machine/Assembler.lean, said once: what each bus access it stands for does.
-/
namespace Sys2Proof.Machine

/-- A write at a mapped offset is well formed. -/
theorem wf_busWrite {o : Nat} (h : o % 4 = 0) (v : Word) : (Access.write (BitVec.ofNat 32 o) .bits32 v).wf = true := by
  simp [Access.wf, alignedAddr]
  omega

/-- A read at a mapped offset is well formed. -/
theorem wf_busRead {o : Nat} (h : o % 4 = 0) : (Access.read (BitVec.ofNat 32 o) .bits32).wf = true := by
  simp [Access.wf, alignedAddr]
  omega

/-- A bus write inside the aperture writes the target there. -/
theorem handleInput_busWrite {o : Nat} (h : o % 4 = 0) (ho : o < 2 ^ 21) (v : Word) (s : State) :
    handleInput (busWrite o v) s = hostWrite (targetAt o) v s := by
  rw [busWrite, handleInput, hostAccess_write, if_pos (wf_busWrite h v), apertureOffset_ofNat ho]

/-- A bus read inside the aperture reads the target there. -/
theorem handleInput_busRead {o : Nat} (h : o % 4 = 0) (ho : o < 2 ^ 21) (s : State) :
    handleInput (busRead o) s = .next (hostRead (targetAt o) s) := by
  rw [busRead, handleInput, hostAccess_read, if_pos (wf_busRead h), apertureOffset_ofNat ho]

/-- `wr NAME, v` writes register `NAME`. -/
theorem handleInput_wr (r : RegName) (v : Word) (s : State) : handleInput (wr r v) s = hostWrite (.reg r) v s := by
  have hr := regOffset_lt r
  rw [wr, handleInput_busWrite hr.2 (by omega), targetAt_regOffset]

/-- `rd NAME` reads register `NAME`. -/
theorem handleInput_rd (r : RegName) (s : State) : handleInput (rd r) s = .next (hostRead (.reg r) s) := by
  have hr := regOffset_lt r
  rw [rd, handleInput_busRead hr.2 (by omega), targetAt_regOffset]

/-- `wr WORD[n], v` writes element `n`. -/
theorem handleInput_wrWord {n : Nat} (h : n < 65536) (v : Word) (s : State) :
    handleInput (wrWord n v) s = hostWrite (.word n) v s := by
  have hb := window_bases
  have ha : wordAddr n = Config.wordBase + 4 * n := rfl
  rw [wrWord, handleInput_busWrite (by omega) (by omega), targetAt_wordAddr h]

/-- `rd WORD[n]` reads element `n`. -/
theorem handleInput_rdWord {n : Nat} (h : n < 65536) (s : State) :
    handleInput (rdWord n) s = .next (hostRead (.word n) s) := by
  have hb := window_bases
  have ha : wordAddr n = Config.wordBase + 4 * n := rfl
  rw [rdWord, handleInput_busRead (by omega) (by omega), targetAt_wordAddr h]

/-- While idle no write is a hazard. -/
theorem hostWrite_idle {s : State} (h : s.seq = .idle) (t : Target) (v : Word) :
    hostWrite t v s = .next (s.writeTarget t v) := by
  rw [hostWrite, State.runningCommand_idle h]

/-- While idle every read returns the target's value. -/
theorem hostRead_idle {s : State} (h : s.seq = .idle) (t : Target) : hostRead t s = s.returnData (s.readTarget t) := by
  rw [hostRead, State.runningCommand_idle h]

/-- A write of `CMD` is never a hazard: it issues the word or drops it. -/
theorem hostWrite_cmd (c : Word) (s : State) : hostWrite (.reg .cmd) c s = .next (s.issue c) := by
  rcases hostWrite_cases (.reg .cmd) c s with ⟨i, S, -, hz, -⟩ | ⟨-, e⟩
  · cases i <;> simp [writeHazard] at hz
  · exact e

/-- A step that takes `wr NAME, v` while idle. -/
theorem step_wr_idle {s : State} {r : RegName} {v : Word} {rest : List Input} (h : s.seq = .idle)
    (hi : s.inputs = wr r v :: rest) : step s = .next (State.writeReg { s with inputs := rest } r v) := by
  rw [step_input hi, handleInput_wr, hostWrite_idle (by simpa using h)]
  rfl

/-- A step that takes `rd NAME` while idle. -/
theorem step_rd_idle {s : State} {r : RegName} {rest : List Input} (h : s.seq = .idle) (hi : s.inputs = rd r :: rest) :
    step s = .next { s with rdata := State.readReg { s with inputs := rest } r, inputs := rest } := by
  rw [step_input hi, handleInput_rd, hostRead_idle (by simpa using h)]
  rfl

/-- A step that takes a write of `CMD`, in any state. -/
theorem step_wr_cmd {s : State} {c : Word} {rest : List Input} (hi : s.inputs = wr .cmd c :: rest) :
    step s = .next (State.issue { s with inputs := rest } c) := by
  rw [step_input hi, handleInput_wr, hostWrite_cmd]

/-- A step that gives the running command its turn. -/
theorem step_turn_run {s : State} {r : Run} {rest : List Input} (h : s.seq = .run r) (hi : s.inputs = .turn :: rest) :
    step s = runCommand r.word { s with inputs := rest } := by
  rw [step_input hi, handleInput, sequencerTurn_run (r := r) (by simpa using h)]

/-- The first of several steps takes `wr NAME, v` while idle. -/
theorem steps_wr_idle {s : State} {r : RegName} {v : Word} {rest : List Input} (k : Nat) (h : s.seq = .idle)
    (hi : s.inputs = wr r v :: rest) : steps (k + 1) s = steps k (State.writeReg { s with inputs := rest } r v) :=
  steps_succ (step_wr_idle h hi) k

/-- The five staging writes of a line, taken while idle, leave the line staged. -/
theorem steps_stageInputs {s : State} (l : Line) {rest : List Input} (k : Nat) (h : s.seq = .idle)
    (hi : s.inputs = stageInputs l ++ rest) : steps (k + 5) s = steps k { s.stageLine l with inputs := rest } := by
  have hi' : s.inputs = wr .lineAddr l.addr :: wr .lineW0 l.w0 :: wr .lineW1 l.w1 :: wr .lineW2 l.w2 ::
      wr .lineW3 l.w3 :: rest := hi
  rw [steps_wr_idle (k + 4) h hi']
  simp only [State.writeReg]
  rw [steps_wr_idle (r := .lineW0) (v := l.w0) (k + 3) (by exact h) (by rfl)]
  simp only [State.writeReg]
  rw [steps_wr_idle (r := .lineW1) (v := l.w1) (k + 2) (by exact h) (by rfl)]
  simp only [State.writeReg]
  rw [steps_wr_idle (r := .lineW2) (v := l.w2) (k + 1) (by exact h) (by rfl)]
  simp only [State.writeReg]
  rw [steps_wr_idle (r := .lineW3) (v := l.w3) k (by exact h) (by rfl)]
  simp only [State.writeReg, State.stageLine]

end Sys2Proof.Machine
end

