-- ==== Sys2Proof/Laws/Numerics.lean ====
section
/-!
SUPPORT. The tolerances of `NUMERICS` are open down to 0 (42_analyze.md R172, 93_implementation_defined.md row 1): the
reference itself, rounded to a nearest binary64, conforms with every `TOL_P >= 0` and `TOL_DB >= 0`, each chosen freely of
the other (log 17), so no clause of `Conforms` is vacuous.
-/
namespace Sys2Proof.Machine

/-- Every real number has a nearest binary64 encoding. -/
theorem exists_nearestBinary64 (r : ℝ) : ∃ b : DWord, IsNearestBinary64 b r := by
  have : Finite DWord := .of_injective BitVec.toFin fun _ _ h => BitVec.eq_of_toFin_eq h
  obtain ⟨b, hb, hmin⟩ := Set.exists_min_image _
    (fun b : DWord => |(((binary64Value b).getD 0 : Rat) : ℝ) - r|) (Set.toFinite {b | (binary64Value b).isSome})
    ⟨0#64, by simp [binary64Value_zero]⟩
  obtain ⟨v, hv⟩ := Option.isSome_iff_exists.1 hb
  refine ⟨b, v, hv, fun c w hc => ?_⟩
  simpa [hv, hc] using hmin c (by simp [hc])

/-- A nearest binary64 encoding of a real number. -/
noncomputable def nearestBinary64 (r : ℝ) : DWord := (exists_nearestBinary64 r).choose

/-- The rounding conforms with every tolerance. -/
theorem nearestBinary64_near (r tol : ℝ) : Binary64Near (nearestBinary64 r) r tol :=
  .inr (exists_nearestBinary64 r).choose_spec

/-- Where some encoding lies within the tolerance, the tolerance is literal. -/
theorem binary64Near_iff_of_exists {r tol : ℝ} (h : ∃ (c : DWord) (w : Rat), binary64Value c = some w ∧ |(w : ℝ) - r| ≤ tol)
    (b : DWord) : Binary64Near b r tol ↔ ∃ v : Rat, binary64Value b = some v ∧ |(v : ℝ) - r| ≤ tol := by
  obtain ⟨c, w, hc, hw⟩ := h
  exact ⟨fun hb => hb.elim id fun ⟨v, hv, hmin⟩ => ⟨v, hv, (hmin c w hc).trans hw⟩, .inl⟩

open Classical in
/-- The reference outcome: every power and decibel value rounded, every class the reference's, `LOG_DOMAIN` exactly for a
log argument that is not positive (42_analyze.md R165, R169). -/
noncomputable def AnalyzeInput.referenceOutcome (inp : AnalyzeInput) : AnalyzeOutcome where
  logDomain := decide (∃ a ∈ inp.logArgsOf inp.referenceTone, a ≤ 0)
  spec k := nearestBinary64 (inp.power k)
  tone := inp.referenceTone
  sigDb := nearestBinary64 (decibels (inp.powerSum (inp.band.filter fun k => !inp.referenceTone k)))
  dcDb := nearestBinary64 (decibels inp.dcPower)
  toneDb := nearestBinary64 (decibels (inp.powerSum (inp.band.filter inp.referenceTone)))

/-- The reference outcome conforms with any tolerances. -/
theorem conforms_reference {tolP : Rat} (hP : 0 ≤ tolP) (tolDb : Rat) (inp : AnalyzeInput) :
    Conforms tolP tolDb inp inp.referenceOutcome where
  bins k _ := nearestBinary64_near (inp.power k) _
  classes k _ _ := by simp [AnalyzeInput.referenceOutcome, AnalyzeInput.referenceTone]
  clear h := by
    refine ⟨decide_eq_false fun ⟨a, ha, h0⟩ => ?_, nearestBinary64_near _ _, nearestBinary64_near _ _,
      fun _ => nearestBinary64_near _ _⟩
    have hP' : (0 : ℝ) ≤ (tolP : ℝ) := by exact_mod_cast hP
    exact absurd h0 ((mul_nonneg (Nat.cast_nonneg _) hP').trans_lt (h a ha)).not_ge
  zero h0 h := by
    refine decide_eq_true ?_
    rwa [h0, Rat.cast_zero, mul_zero] at h

/-- For every pair of tolerances there is a conforming parameter: the reference (42_analyze.md R172). -/
noncomputable def Numerics.reference (tolP tolDb : Rat) (hP : 0 ≤ tolP) (hDb : 0 ≤ tolDb) : Numerics where
  tolP := tolP
  tolDb := tolDb
  tolP_nonneg := hP
  tolDb_nonneg := hDb
  outcome := AnalyzeInput.referenceOutcome
  conforms inp _ := conforms_reference hP tolDb inp

end Sys2Proof.Machine
end

