-- ==== Sys2Proof/Laws/PerInstr.lean ====
section
/-!
SUPPORT. Facts about every instruction as syntax, one lemma per constructor.
-/
namespace Sys2Proof.Laws.DecodesItsWord

/-- The instruction is well formed and its command word, `RSV = 0` above its opcode, decodes to it (30_encoding.md R80
to R82). -/
def Statement (i : Instr) : Prop :=
  i.wf = true ∧ rsvField (encode i) = 0#24 ∧ opField (encode i) = opcode i ∧ decode (encode i) = .ok i

theorem nop : Statement .nop := ⟨rfl, rfl, rfl, rfl⟩

theorem clear : Statement .clear := ⟨rfl, rfl, rfl, rfl⟩

theorem framePush : Statement .framePush := ⟨rfl, rfl, rfl, rfl⟩

theorem reorder : Statement .reorder := ⟨rfl, rfl, rfl, rfl⟩

theorem unpack : Statement .unpack := ⟨rfl, rfl, rfl, rfl⟩

theorem analyze : Statement .analyze := ⟨rfl, rfl, rfl, rfl⟩

end Sys2Proof.Laws.DecodesItsWord
end

