-- ==== Sys2Proof/Laws/Safety.lean ====
section
/-!
SUPPORT. What the definitions of Safety.lean say, once: when the sequencer runs, when an analysis is in progress, and what
the contract machine can answer.
-/
namespace Sys2Proof.Safety

open Sys2Proof.Machine

/-- The sequencer runs exactly when it holds a word and no input, or its turn, is next. -/
theorem sequencerRuns_iff (s : State) :
    sequencerRuns s = true ↔ (∃ r, s.seq = .run r) ∧ (s.inputs = [] ∨ ∃ rest, s.inputs = .turn :: rest) := by
  unfold sequencerRuns State.busy
  cases s.seq <;> cases s.inputs <;> simp [Seq.isRun]

/-- With no word held no analysis is in progress. -/
theorem analyzing_idle {s : State} (h : s.seq = .idle) : analyzing s = false := by
  simp [analyzing, State.runningCommand_idle h]

/-- With a word held an analysis is in progress exactly when the word decodes to `ANALYZE`. -/
theorem analyzing_run {s : State} {r : Run} (h : s.seq = .run r) :
    analyzing s = true ↔ decode r.word = .ok .analyze := by
  unfold analyzing State.runningCommand
  rw [h]
  cases hd : decode r.word <;> simp [hd]

/-- What the contract machine answers where `step` gives a next state. -/
theorem contractStep_next {s t : State} (h : step s = .next t) :
    (sequencerRuns s = false ∧ contractStep s = .next t) ∨
      (sequencerRuns s = true ∧ contractFault s t.err = none ∧ contractStep s = .next t) ∨
      ∃ f, sequencerRuns s = true ∧ contractFault s t.err = some f ∧ contractStep s = .fault f := by
  unfold contractStep
  rw [h]
  cases hs : sequencerRuns s
  · exact .inl ⟨rfl, rfl⟩
  · cases hf : contractFault s t.err with
    | none => exact .inr (.inl ⟨rfl, rfl, by simp [hf]⟩)
    | some f => exact .inr (.inr ⟨f, rfl, rfl, by simp [hf]⟩)

end Sys2Proof.Safety
end

