-- ==== Sys2Proof/Tests/Slice0.lean ====
section
/-!
SUPPORT. Tests of the model against the worked examples of 95_test_vectors.md (each names its vector), the smoke tests of
the well-formedness checks, and for every statement with hypotheses a witness that meets them.
-/
namespace Sys2Proof.Tests

open Sys2Proof Sys2Proof.Machine Sys2Proof.Safety Sys2Proof.Statements

/-! ## Helpers -/

/-- One observation of a next state. -/
def observe {α : Type} (f : State → α) : Host.Outcome State Fault Refusal → Option α
  | .next t => some (f t)
  | .fault _ => none
  | .refused _ => none

/-- The reset state with words in `WORD`, counted by `LEN`. -/
def wordsLoaded (ws : List Word) : State :=
  { State.reset with mem := State.reset.mem.writeWords (wordAddr 0) ws, len := BitVec.ofNat 17 ws.length }

/-- The words left in `WORD[0 .. LEN-1]`. -/
def wordsOf (s : State) : List Word := s.mem.readWords (wordAddr 0) s.len.toNat

/-- The reset state with unpacked samples of width 14. -/
def samplesLoaded (is qs : List Int) : State :=
  { State.reset with
    mem := (State.reset.mem.writeWords (iqiAddr 0) (is.map (BitVec.ofInt 32))).writeWords (iqqAddr 0)
      (qs.map (BitVec.ofInt 32))
    nsamp := BitVec.ofNat 17 is.length
    sampleWidth := 14#5 }

/-- The reset state with one event pending. -/
def pending (e : Input) : State := { State.reset with inputs := [e] }

/-- The reset state while a command word runs, with the events pending. -/
def running (c : Word) (inputs : List Input) : State := { State.reset.startRun c with inputs := inputs }

/-! ## Decoding: words written out from the opcode map (30_encoding.md R80, R82) -/

theorem test_decode_nop : decode 0b00000000000000000000000000000000#32 = .ok .nop := by decide

theorem test_decode_clear : decode 0b00000000000000000000000000000001#32 = .ok .clear := by decide

theorem test_decode_framePush : decode 0b00000000000000000000000000000010#32 = .ok .framePush := by decide

theorem test_decode_reorder : decode 0b00000000000000000000000000000011#32 = .ok .reorder := by decide

theorem test_decode_unpack : decode 0b00000000000000000000000000000100#32 = .ok .unpack := by decide

theorem test_decode_analyze : decode 0b00000000000000000000000000000101#32 = .ok .analyze := by decide

/-- V-PR-4: opcode 0 with a reserved bit set is no `NOP`. -/
theorem test_decode_reserved_bit : decode 0x00000100#32 = .error .reservedBits := by decide

theorem test_decodeTableWord : decodeTableWord 32 5 = some .analyze ∧ decodeTableWord 32 6 = none := by decide

/-! ## Well-formedness: each check refuses an ill-formed term -/

theorem test_wf_every_command : Instr.all.all Instr.wf = true := by decide

theorem test_wf_refuses_size : (Access.read 0x08#32 .bits16).wf = false ∧ (Access.write 0x08#32 .bits64 0#32).wf = false := by
  decide

theorem test_wf_refuses_misaligned :
    (Access.read 0x0A#32 .bits32).wf = false ∧ (Access.write 0x40001#32 .bits32 0#32).wf = false := by decide

theorem test_wf_refuses_other_master : Input.otherMaster.wf = false ∧ (Input.access (.read 1#32 .bits8)).wf = false := by
  decide

/-! ## Commands -/

/-- V-PR-1. -/
theorem test_nop : observe State.status (exec .nop State.reset) = some 0x00000002#32 := by decide

/-- V-PR-2. -/
theorem test_clear :
    observe (fun t => (t.len, t.nsamp, t.status))
      (exec .clear { State.reset with len := 12#17, nsamp := 12#17, frameBad := true, overrun := true }) =
      some (0#17, 0#17, 0x00000002#32) := by decide

/-- V-PR-3: a reserved opcode. -/
theorem test_bad_command : observe State.status (runCommand 0x00000006#32 State.reset) = some 0x00000102#32 := by decide

/-- V-FP-1. -/
theorem test_framePush_appends :
    observe (fun t => (wordsOf t, t.len, t.status))
      (exec .framePush ({ State.reset with base := 0x00200000#32 }.stageLine ⟨0x00200000#32, 1#32, 2#32, 3#32, 4#32⟩)) =
      some ([1#32, 2#32, 3#32, 4#32], 4#17, 0x00000002#32) := by decide

/-- V-FP-6: a line below `BASE`. -/
theorem test_framePush_below_base :
    observe (fun t => (t.frameBad, t.len, t.status))
      (exec .framePush ({ State.reset with base := 0x00200000#32 }.stageLine ⟨0x001FFFF0#32, 1#32, 2#32, 3#32, 4#32⟩)) =
      some (true, 0#17, 0x00000206#32) := by decide

/-- V-RO-1. -/
theorem test_reorder_rotates :
    observe (fun t => (wordsOf t, t.status))
      (exec .reorder { wordsLoaded [10, 11, 12, 13, 14, 15, 16, 17] with endAddr := 2#32 }) =
      some ([13, 14, 15, 16, 17, 10, 11, 12], 0x00000002#32) := by decide

/-- V-RO-6: the sentinel. -/
theorem test_reorder_sentinel :
    observe State.status (exec .reorder (wordsLoaded [10, 11, 12, 13, 14, 15, 16, 17])) = some 0x00000402#32 := by
  decide

/-- V-UP-1. -/
theorem test_unpack_signed_fields :
    observe (fun t => (t.mem.readWord (iqiAddr 0), t.mem.readWord (iqqAddr 0), t.nsamp, t.sampleWidth))
      (exec .unpack { wordsLoaded [0x1FFF2000#32] with layout := 0x1F100F00#32 }) =
      some (0x00001FFF#32, 0xFFFFE000#32, 1#17, 14#5) := by decide

/-- V-UP-11: the span 1 is no legal layout. -/
theorem test_unpack_format :
    observe State.status (exec .unpack { wordsLoaded [0#32] with layout := 0x11100100#32 }) = some 0x00000602#32 := by
  decide

/-- V-SA-11: Q4(0.25, 0.25) with a window that holds no bin. -/
theorem test_analyze_empty_band :
    observe (fun t => (t.err, t.done))
      (exec .analyze { samplesLoaded [4096, 2048, 0, 2048] [0, 2048, 0, -2048] with
        fs := 0x4010000000000000#64, cf := 0x3FE8000000000000#64, bw := 0#64, th := 0#64 }) =
      some (.emptyBand, true) := by decide +kernel

/-- V-SA-16: `FS = +0.0`, its reset value. -/
theorem test_analyze_param : observe State.status (exec .analyze (samplesLoaded [4096] [2048])) = some 0x00000802#32 := by
  decide +kernel

/-- V-SA-3: the band of 16 bins at `FS = 4` with the reset parameters; the lower edge is included. -/
theorem test_band_is_closed :
    ({ samples := List.replicate 16 (0, 0), fs := 4, cf := 3 / 4, bw := 1, th := 10 } : AnalyzeInput).band =
      [12, 13, 14, 15] := by decide +kernel

/-- V-SA-15: one sample `0.5 + 0.25j` has the power 5/16. -/
theorem test_reference_power :
    ({ samples := [(1 / 2, 1 / 4)], fs := 1, cf := 3 / 4, bw := 1, th := 10 } : AnalyzeInput).power 0 = 5 / 16 := by
  rw [AnalyzeInput.power, AnalyzeInput.unshiftedPower, AnalyzeInput.transform]
  simp [AnalyzeInput.length, AnalyzeInput.sample, AnalyzeInput.unshifted, AnalyzeInput.dcIndex]
  rw [← Complex.normSq_eq_norm_sq, Complex.normSq_mk]
  norm_num

/-! ## The host's accesses -/

/-- V-PR-9: the register `ID`. -/
theorem test_read_id : observe State.rdata (step (pending (busRead 0))) = some 0x47440007#32 := by decide

/-- V-PR-11, V-PR-12: `LEN` takes 65536 and ignores 65537. -/
theorem test_write_len :
    observe State.len (step (pending (wr .len 65536#32))) = some 65536#17 ∧
      observe State.len (step (pending (wr .len 65537#32))) = some 0#17 := by decide

/-- V-PR-6, its first half: a command issued during a run is dropped and recorded. -/
theorem test_command_dropped :
    observe (fun t => (t.overrun, t.busy)) (step (running 0x00000005#32 [wr .cmd 0x00000001#32])) = some (true, true) := by
  decide

/-- The word that `withFetchWord` places runs as the first command after reset. -/
theorem test_fetch_word : observe State.status (step (State.reset.withFetchWord 32 1)) = some 0x00000002#32 := by decide

/-! ## Witnesses: for each statement with hypotheses, concrete terms that meet them -/

/-- For `CommandWordsRunByOpcode`: a word for each clause, the least and the greatest reserved opcode among them. -/
theorem witness_commandWordsRunByOpcode :
    (0x00000100#32).extractLsb' 8 24 ≠ 0#24 ∧
      (∀ c ∈ [0x00#32, 0x01#32, 0x02#32, 0x03#32, 0x04#32, 0x05#32, 0x06#32, 0xFF#32], c.extractLsb' 8 24 = 0#24) ∧
      (0x05#32).extractLsb' 0 8 = 0x05#8 ∧ 6 ≤ ((0x06#32).extractLsb' 0 8).toNat ∧
      6 ≤ ((0xFF#32).extractLsb' 0 8).toNat := by
  simp only [List.forall_mem_cons, List.not_mem_nil, IsEmpty.forall_iff, implies_true, and_true]
  decide

/-- For `StepRunsDecodedInstruction`: a running `UNPACK`, with no event and with a turn pending. -/
theorem witness_stepRunsDecodedInstruction :
    (∃ r, (running 0x00000004#32 []).seq = .run r ∧ decode r.word = .ok .unpack) ∧ Instr.unpack.wf = true ∧
      (running 0x00000004#32 []).inputs = [] ∧
      (running 0x00000004#32 [.turn, .reset]).inputs = .turn :: [.reset] := by
  exact ⟨⟨_, rfl, by decide⟩, rfl, rfl, rfl⟩

/-- For `CommandWriteIssuesOrIsDropped`: the aperture's own address of `CMD` while idle, and its highest alias while a
command runs. -/
theorem witness_commandWriteIssuesOrIsDropped :
    (0x00000004#32).toNat % 2 ^ 21 = 4 ∧ (0xFFE00004#32).toNat % 2 ^ 21 = 4 ∧
      (pending (wr .cmd 0x00000001#32)).seq = .idle ∧
      (pending (wr .cmd 0x00000001#32)).inputs = .access (.write 0x00000004#32 .bits32 0x00000001#32) :: [] ∧
      (∃ r, (running 0x00000005#32 [.access (.write 0xFFE00004#32 .bits32 0#32)]).seq = .run r) := by
  exact ⟨by decide, by decide, rfl, rfl, ⟨_, rfl⟩⟩

/-- For `EveryRunCompletes`: a running command and a running reserved word. -/
theorem witness_everyRunCompletes :
    (∃ r, (running 0x00000003#32 []).seq = .run r) ∧ (∃ r, (running 0xFFFFFFFF#32 []).seq = .run r) ∧
      (running 0x00000003#32 []).inputs = [] ∧ (running 0xFFFFFFFF#32 []).inputs = [] := by
  exact ⟨⟨_, rfl⟩, ⟨_, rfl⟩, rfl, rfl⟩

/-- For `ClearKeepsOverrunOfItsOwnRun`: an idle state for each of its two sequences. -/
theorem witness_clearKeepsOverrun :
    ({ State.reset with inputs := [wr .cmd 1#32, wr .cmd 0#32, .turn] } : State).seq = .idle ∧
      ({ State.reset with inputs := [wr .cmd 1#32, .turn], overrun := true } : State).seq = .idle := by
  exact ⟨rfl, rfl⟩

/-- A frame of `len` words with the line at `addr` staged, `BASE = 0`. -/
def lineStaged (len : BitVec 17) (addr : Word) : State := { State.reset with len := len, lineAddr := addr }

/-- For `FramePushAppendsItsLine`: the first slot, and the last slot of the capacity. -/
theorem witness_framePushAppendsItsLine :
    (lineStaged 0#17 0#32).operands.frameBad = false ∧
      ((lineStaged 0#17 0#32).operands.lineAddr - (lineStaged 0#17 0#32).operands.base).toNat =
        4 * (lineStaged 0#17 0#32).operands.len.toNat ∧
      (lineStaged 0#17 0#32).operands.len.toNat + 4 ≤ 65536 ∧
      (lineStaged 65532#17 262128#32).operands.frameBad = false ∧
      ((lineStaged 65532#17 262128#32).operands.lineAddr - (lineStaged 65532#17 262128#32).operands.base).toNat =
        4 * (lineStaged 65532#17 262128#32).operands.len.toNat ∧
      (lineStaged 65532#17 262128#32).operands.len.toNat + 4 ≤ 65536 := by decide

/-- For `FramePushFailuresWriteNoFrame`: one state for each clause, the smallest `LEN` that overflows among them. -/
theorem witness_framePushFailures :
    ({ State.reset with frameBad := true } : State).operands.frameBad = true ∧
      ((lineStaged 4#17 12#32).operands.frameBad = false ∧
        ((lineStaged 4#17 12#32).operands.lineAddr - (lineStaged 4#17 12#32).operands.base).toNat ≠
          4 * (lineStaged 4#17 12#32).operands.len.toNat) ∧
      ((lineStaged 65533#17 262132#32).operands.frameBad = false ∧
        ((lineStaged 65533#17 262132#32).operands.lineAddr - (lineStaged 65533#17 262132#32).operands.base).toNat =
          4 * (lineStaged 65533#17 262132#32).operands.len.toNat ∧
        65536 < (lineStaged 65533#17 262132#32).operands.len.toNat + 4) := by decide

/-- The reset state, a bad frame in it, with `run CLEAR` and the pushes of the lines pending. -/
def pushing (lines : List Line) : State :=
  { State.reset with frameBad := true, inputs := runOp .clear 0 ++ lines.flatMap (fun l => pushInputs l 0) }

/-- For `FrameAcceptedIffContiguous`: an idle state with the accesses of no line and of as many as fit; two lines that meet the
condition, and two that do not. -/
theorem witness_frameAcceptedIffContiguous :
    (∀ lines : List Line, (pushing lines).seq = .idle ∧
      (pushing lines).inputs = runOp .clear 0 ++ lines.flatMap (fun l => pushInputs l 0)) ∧
      4 * ([] : List Line).length ≤ 65536 ∧
      4 * (List.replicate 16384 (Line.mk 0#32 1#32 2#32 3#32 4#32)).length ≤ 65536 ∧
      (∀ m (h : m < [Line.mk 0#32 1#32 2#32 3#32 4#32, Line.mk 16#32 5#32 6#32 7#32 8#32].length),
        ([Line.mk 0#32 1#32 2#32 3#32 4#32, Line.mk 16#32 5#32 6#32 7#32 8#32][m].addr - State.reset.base).toNat =
          16 * m) ∧
      ([Line.mk 0#32 1#32 2#32 3#32 4#32, Line.mk 48#32 5#32 6#32 7#32 8#32][1].addr - State.reset.base).toNat ≠ 16 := by
  refine ⟨fun _ => ⟨rfl, rfl⟩, by decide, by rw [List.length_replicate], by decide, by decide⟩

/-- For `PushSequenceRunsFramePush`: the reset state with the push pending. -/
theorem witness_pushSequence :
    ({ State.reset with inputs := pushInputs ⟨0#32, 1#32, 2#32, 3#32, 4#32⟩ 0 } : State).seq = .idle := rfl

/-- For `ReorderRotatesAtEndAddress` and `ReorderWithoutWrapKeepsMemory`: one word at its own end, and a full buffer at
its two ends. -/
theorem witness_reorderRotates :
    (∀ s ∈ [({ State.reset with len := 1#17, endAddr := 0#32 } : State),
        { State.reset with len := 65536#17, endAddr := 0#32 }, { State.reset with len := 65536#17, endAddr := 65535#32 }],
      s.operands.frameBad = false ∧ s.operands.endAddr.toNat < s.operands.len.toNat) ∧
    ({ State.reset with len := 65536#17, endAddr := 65535#32 } : State).operands.endAddr.toNat + 1 =
      ({ State.reset with len := 65536#17, endAddr := 65535#32 } : State).operands.len.toNat := by decide

/-- The reset state while `REORDER` runs over a frame of eight words with the `END_ADDR`. -/
def reordering (endAddr : Word) : State :=
  ({ State.reset with len := 8#17, endAddr := endAddr } : State).startRun 0x00000003#32

/-- For `ReorderPermutesAndIsUndone`: a run at `END_ADDR = 6` and, over whatever memory it leaves, one at 0, the boundary of the
last clause. -/
theorem witness_reorderPermutes :
    (∃ r, (reordering 6#32).seq = .run r ∧ r.snap.frameBad = false ∧ r.snap.endAddr.toNat < r.snap.len.toNat ∧
      ∀ m : Memory, ∃ r', ({ reordering 0#32 with mem := m } : State).seq = .run r' ∧
        ({ reordering 0#32 with mem := m } : State).mem = m ∧ r'.snap.frameBad = false ∧ r'.snap.len = r.snap.len ∧
        r'.snap.endAddr.toNat + r.snap.endAddr.toNat + 2 = r.snap.len.toNat) := by
  exact ⟨_, rfl, rfl, by decide, fun _ => ⟨_, rfl, rfl, rfl, rfl, by decide⟩⟩

/-- For `ReorderErrorsKeepWords`: one state for each clause, `END_ADDR = LEN` among them. -/
theorem witness_reorderErrors :
    ({ State.reset with frameBad := true } : State).operands.frameBad = true ∧
      (State.reset.operands.frameBad = false ∧ State.reset.operands.endAddr = 0x80000000#32) ∧
      (({ State.reset with len := 8#17, endAddr := 8#32 } : State).operands.frameBad = false ∧
        ({ State.reset with len := 8#17, endAddr := 8#32 } : State).operands.endAddr ≠ 0x80000000#32 ∧
        ({ State.reset with len := 8#17, endAddr := 8#32 } : State).operands.len.toNat ≤
          ({ State.reset with len := 8#17, endAddr := 8#32 } : State).operands.endAddr.toNat) := by decide

/-- A full word buffer with a layout. -/
def layoutLoaded (w : Word) : State := { State.reset with len := 65536#17, layout := w }

/-- For `UnpackStoresSignedFields`: the layout of the source's default, the narrowest and the widest. -/
theorem witness_unpackStores :
    ∀ w ∈ [0x1F100F00#32, 0x02000503#32, 0x1F001F00#32],
      (layoutLoaded w).operands.frameBad = false ∧ (layoutLoaded w).operands.len.toNat ≤ 65536 ∧
        LegalRanges (layoutField (layoutLoaded w).operands.layout 24) (layoutField (layoutLoaded w).operands.layout 16)
          (layoutField (layoutLoaded w).operands.layout 8) (layoutField (layoutLoaded w).operands.layout 0) := by
  simp only [List.forall_mem_cons, List.not_mem_nil, IsEmpty.forall_iff, implies_true, and_true]
  unfold LegalRanges
  decide

/-- For `UnpackErrorsKeepOutputs`: a bad frame, and the layouts of V-UP-10 (spans), V-UP-11 (span 1), V-UP-12 (inverted)
and V-UP-13 (`MSB_I = 32`). -/
theorem witness_unpackErrors :
    ({ State.reset with frameBad := true } : State).operands.frameBad = true ∧
      ∀ w ∈ [0x1F0F0F00#32, 0x11100100#32, 0x0F1F0F1F#32, 0x20101000#32],
        (layoutLoaded w).operands.frameBad = false ∧
          ¬ LegalRanges (layoutField (layoutLoaded w).operands.layout 24) (layoutField (layoutLoaded w).operands.layout 16)
            (layoutField (layoutLoaded w).operands.layout 8) (layoutField (layoutLoaded w).operands.layout 0) := by
  simp only [List.forall_mem_cons, List.not_mem_nil, IsEmpty.forall_iff, implies_true, and_true]
  unfold LegalRanges
  decide

/-- For `LegalFieldsLieInLowThirtyBits`: the narrowest and the widest legal layout. -/
theorem witness_legalFields :
    layoutLegal (layoutOf 0x02000503#32) = true ∧ layoutLegal (layoutOf 0x1F001F00#32) = true := by decide

/-- For `UnpackReadsOnlyItsField`: two words that differ above the I field, and two that differ above the Q field. -/
theorem witness_unpackReadsOnly :
    layoutLegal (layoutOf 0x1F100F00#32) = true ∧
      (∀ b < 32, 16 ≤ b → b < 30 → (0x0000FFFF#32).getLsbD b = (0xC0000000#32).getLsbD b) ∧
      (∀ b < 32, 0 ≤ b → b < 14 → (0xFFFFC000#32).getLsbD b = (0x00000000#32).getLsbD b) := by decide

/-- For `WidthOneFieldsAreZeroOrMinusOne`: the layout of V-UP-7. -/
theorem witness_widthOne :
    layoutLegal (layoutOf 0x02000503#32) = true ∧
      (layoutOf 0x02000503#32).msbI.toNat = (layoutOf 0x02000503#32).lsbI.toNat + 2 := by decide

/-- For `PackedPairUnpacksExactly`: the layouts "31:16, 15:0" and "15:0, 31:16" with the extreme values of their width. -/
theorem witness_packedPair :
    ∀ l ∈ [layoutOf 0x1F100F00#32, layoutOf 0x0F001F10#32],
      layoutLegal l = true ∧
        (l.lsbI.toNat + layoutWidth l ≤ l.lsbQ.toNat ∨ l.lsbQ.toNat + layoutWidth l ≤ l.lsbI.toNat) ∧
        -(2 : Int) ^ (layoutWidth l - 1) ≤ -8192 ∧ (-8192 : Int) < (2 : Int) ^ (layoutWidth l - 1) ∧
        -(2 : Int) ^ (layoutWidth l - 1) ≤ 8191 ∧ (8191 : Int) < (2 : Int) ^ (layoutWidth l - 1) := by decide

/-- For `UnpackLanesAreIndependent`: two good frames that share their first word, and not their second. -/
theorem witness_unpackLanes :
    let s := { wordsLoaded [7#32, 8#32] with layout := 0x1F100F00#32 }
    let s' := { wordsLoaded [7#32, 9#32] with layout := 0x1F100F00#32 }
    s.operands.frameBad = false ∧ s'.operands.frameBad = false ∧ layoutLegal (layoutOf s.operands.layout) = true ∧
      s'.operands.layout = s.operands.layout ∧ s.operands.len.toNat ≤ 65536 ∧ s'.operands.len.toNat ≤ 65536 ∧
      0 < s.operands.len.toNat ∧ s.mem.readWord (wordAddr 0) = s'.mem.readWord (wordAddr 0) := by decide

/-- For `AnalyzeRejectsEmptyThenParameters`: no sample; and samples with, in turn, an infinite `FS`, a NaN in `CF`, in `BW`
and in `TH`, a negative `FS`, a zero `FS` and a negative `BW`. -/
theorem witness_analyzeRejects :
    let s := { State.reset with nsamp := 1#17, fs := 0x3FF0000000000000#64 }
    State.reset.operands.nsamp = 0#17 ∧ s.operands.nsamp ≠ 0#17 ∧
      ({ s with fs := 0x7FF0000000000000#64 } : State).operands.fs.extractLsb' 52 11 = 0x7FF#11 ∧
      ({ s with cf := 0x7FF8000000000000#64 } : State).operands.cf.extractLsb' 52 11 = 0x7FF#11 ∧
      ({ s with bw := 0x7FF8000000000000#64 } : State).operands.bw.extractLsb' 52 11 = 0x7FF#11 ∧
      ({ s with th := 0x7FF8000000000000#64 } : State).operands.th.extractLsb' 52 11 = 0x7FF#11 ∧
      ({ s with fs := 0xBFF0000000000000#64 } : State).operands.fs.getLsbD 63 = true ∧
      ({ s with fs := 0x0000000000000000#64 } : State).operands.fs.extractLsb' 0 63 = 0#63 ∧
      (({ s with bw := 0x8000000000000001#64 } : State).operands.bw.getLsbD 63 = true ∧
        ({ s with bw := 0x8000000000000001#64 } : State).operands.bw.extractLsb' 0 63 ≠ 0#63) := by decide

/-- For `AnalyzeReportsEmptyBand`: V-SA-11. -/
theorem witness_analyzeEmptyBand :
    let s := { samplesLoaded [4096, 2048, 0, 2048] [0, 2048, 0, -2048] with
      fs := 0x4010000000000000#64, bw := 0#64, th := 0#64 }
    s.operands.nsamp ≠ 0#17 ∧ s.operands.params = some ⟨4, 3 / 4, 0, 0⟩ ∧
      ∀ k : Nat, k < s.operands.nsamp.toNat →
        ¬ ((3 / 4 : Rat) * 4 / 2 - 0 / 2 ≤
              ((k : Rat) - ((s.operands.nsamp.toNat / 2 : Nat) : Rat)) * 4 / (s.operands.nsamp.toNat : Rat) ∧
            ((k : Rat) - ((s.operands.nsamp.toNat / 2 : Nat) : Rat)) * 4 / (s.operands.nsamp.toNat : Rat) ≤
              (3 / 4 : Rat) * 4 / 2 + 0 / 2) := by decide +kernel

/-- The state of V-SA-7: four samples, `FS = 4`, `CF = 0.25`, `BW = 1`, `TH = 0`. -/
def toneLoaded : State :=
  { samplesLoaded [5120, 2048, -1024, 2048] [0, 3072, 0, -3072] with
    fs := 0x4010000000000000#64, cf := 0x3FD0000000000000#64, th := 0#64 }

/-- For `AnalyzeConformsToReference`: V-SA-7, whose band is `{2, 3}`. -/
theorem witness_analyzeConforms :
    0 < toneLoaded.operands.nsamp.toNat ∧ toneLoaded.operands.nsamp.toNat ≤ 65536 ∧
      1 ≤ toneLoaded.operands.sampleWidth.toNat ∧ toneLoaded.operands.sampleWidth.toNat ≤ 30 ∧
      (∀ n < toneLoaded.operands.nsamp.toNat,
        InWidth toneLoaded.operands.sampleWidth.toNat (toneLoaded.mem.readWord (iqiAddr n)) ∧
          InWidth toneLoaded.operands.sampleWidth.toNat (toneLoaded.mem.readWord (iqqAddr n))) ∧
      toneLoaded.operands.params = some ⟨4, 1 / 4, 1, 0⟩ ∧
      (analyzeInput toneLoaded.mem toneLoaded.operands ⟨4, 1 / 4, 1, 0⟩).band = [2, 3] := by
  unfold InWidth; decide +kernel

/-- For `AnalyzeDependsOnlyOnItsInput`: the state of V-SA-7 and the same samples beside another `WORD` buffer, `LAYOUT` and
`LEN`. -/
theorem witness_analyzeDependsOnly :
    let s' := { toneLoaded with mem := toneLoaded.mem.writeWord (wordAddr 0) 5#32, layout := 9#32, len := 1#17 }
    toneLoaded.operands.params = some ⟨4, 1 / 4, 1, 0⟩ ∧ s'.operands.params = some ⟨4, 1 / 4, 1, 0⟩ ∧
      toneLoaded.operands.nsamp = s'.operands.nsamp ∧ toneLoaded.operands.nsamp.toNat ≤ 65536 ∧
      analyzeInput toneLoaded.mem toneLoaded.operands ⟨4, 1 / 4, 1, 0⟩ =
        analyzeInput s'.mem s'.operands ⟨4, 1 / 4, 1, 0⟩ := by decide +kernel

/-- For `NormalizedSamplesLieInUnitRange`: the extreme values of the width 14 and of the width 1. -/
theorem witness_normalizedSamples :
    InWidth 14 0xFFFFE000#32 ∧ InWidth 14 0x00001FFF#32 ∧ InWidth 1 0xFFFFFFFF#32 ∧ InWidth 1 0#32 := by
  unfold InWidth; decide

/-- An analyzer's input with the samples, at `FS = 1` and the reset values of the other parameters. -/
def inputOf (samples : List (Rat × Rat)) : AnalyzeInput := { samples := samples, fs := 1, cf := 3 / 4, bw := 1, th := 10 }

/-- For `SpectrumIsCentredOnDc`: 1, 2 and 3 samples. -/
theorem witness_spectrumIsCentred :
    1 = (inputOf [(0, 0)]).samples.length ∧ 2 = (inputOf [(0, 0), (1, 0)]).samples.length ∧ 2 % 2 = 0 ∧
      3 = (inputOf [(0, 0), (1, 0), (0, 0)]).samples.length ∧ 3 % 2 = 1 := ⟨rfl, rfl, rfl, rfl, rfl⟩

/-- For `SpectrumKeepsEnergy` and `TotalPowerIsBelowTwo`: the sample `-1 - j`, which is in range. -/
theorem witness_sampleInRange :
    (inputOf [(-1, -1)]).samples ≠ [] ∧
      ∀ x ∈ (inputOf [(-1, -1)]).samples, (-1 ≤ x.1 ∧ x.1 < 1) ∧ (-1 ≤ x.2 ∧ x.2 < 1) := by decide

/-- For `PureToneFillsOneBin`: `x[n] = 1/2·exp(πj·n)` over two samples, a tone in bin 1. -/
theorem witness_pureTone :
    (inputOf [(1 / 2, 0), (-1 / 2, 0)]).samples ≠ [] ∧ (0 : ℝ) < 1 / 2 ∧
      ∀ n < (inputOf [(1 / 2, 0), (-1 / 2, 0)]).length,
        (inputOf [(1 / 2, 0), (-1 / 2, 0)]).sample n = ((1 / 2 : ℝ) : ℂ) *
          Complex.exp (2 * Real.pi * Complex.I * (1 : Int) * n / (inputOf [(1 / 2, 0), (-1 / 2, 0)]).length) := by
  refine ⟨by decide, by norm_num, fun n hn => ?_⟩
  have h2 : n < 2 := hn
  have hl : (inputOf [(1 / 2, 0), (-1 / 2, 0)]).length = 2 := rfl
  rw [hl]
  obtain rfl | rfl : n = 0 ∨ n = 1 := by omega
  · apply Complex.ext <;> norm_num [AnalyzeInput.sample, inputOf]
  · have e : (2 * Real.pi * Complex.I * ((1 : Int) : ℂ) * ((1 : Nat) : ℂ) / ((2 : Nat) : ℂ)) = Real.pi * Complex.I := by
      push_cast; ring
    rw [e, Complex.exp_pi_mul_I]
    apply Complex.ext <;> norm_num [AnalyzeInput.sample, inputOf]

/-- For `SomeInBandBinIsNoTone`: one sample with its bin in the band, `TH = 0`. -/
theorem witness_someInBandBin :
    ({ inputOf [(1 / 2, 0)] with th := 0 } : AnalyzeInput).samples ≠ [] ∧
      ({ inputOf [(1 / 2, 0)] with th := 0 } : AnalyzeInput).band ≠ [] ∧
      0 ≤ ({ inputOf [(1 / 2, 0)] with th := 0 } : AnalyzeInput).th := by decide +kernel

/-- For `ReadsFollowAddressMap`: an idle state with a read pending, at the last register, at the last element of every
window and at both ends of the reserved ranges. -/
theorem witness_readsFollowAddressMap :
    (∀ addr : Word, (pending (.access (.read addr .bits32))).seq = .idle ∧
      (pending (.access (.read addr .bits32))).inputs = .access (.read addr .bits32) :: []) ∧
      (∀ addr ∈ [0x80#32, 0x7FFFC#32, 0xBFFFC#32, 0xFFFFC#32, 0x17FFF8#32, 0x17FFFC#32, 0x1BFFFC#32, 0x84#32, 0x3FFFC#32,
        0x1C0000#32, 0x1FFFFC#32], addr.toNat % 4 = 0 ∧ addr.toNat % 2 ^ 21 = addr.toNat) ∧
      0x7FFFC = 0x40000 + 4 * 65535 ∧ 0xBFFFC = 0x80000 + 4 * 65535 ∧ 0xFFFFC = 0xC0000 + 4 * 65535 ∧
      0x17FFF8 = 0x100000 + 8 * 65535 ∧ 0x17FFFC = 0x100004 + 8 * 65535 ∧ 0x1BFFFC = 0x180000 + 4 * 65535 ∧
      (0x80, State.reset.nspec.setWidth 32) ∈ registerValues State.reset ∧ 0x84 ≤ 0x3FFFC ∧ 0x3FFFC < 0x40000 := by
  refine ⟨fun _ => ⟨rfl, rfl⟩, ?_, by decide, by decide, by decide, by decide, by decide, by decide, ?_, by decide,
    by decide⟩
  · simp only [List.forall_mem_cons, List.not_mem_nil, IsEmpty.forall_iff, implies_true, and_true]
    decide
  · simp [registerValues]

/-- For `ReadsChangeNoState`: a pending read in a state that runs a command. -/
theorem witness_readsChangeNoState :
    (running 0x00000005#32 [.access (.read 0x180000#32 .bits32)]).inputs = .access (.read 0x180000#32 .bits32) :: [] ∧
      (0x180000#32).toNat % 4 = 0 := ⟨rfl, by decide⟩

/-- For `WritesFollowAddressMap`: an idle state with a write pending, at a register, at the two ends of `WORD`, and at ignored
addresses next to both. -/
theorem witness_writesFollowAddressMap :
    (∀ addr v : Word, (pending (.access (.write addr .bits32 v))).seq = .idle ∧
      (pending (.access (.write addr .bits32 v))).inputs = .access (.write addr .bits32 v) :: []) ∧
      (∀ addr ∈ [0x14#32, 0x40000#32, 0x7FFFC#32, 0x3FFFC#32, 0x80000#32, 0x1FFFFC#32],
        addr.toNat % 4 = 0 ∧ addr.toNat % 2 ^ 21 = addr.toNat) ∧
      (0x5C, { State.reset with th := 7#32 ++ State.reset.th.extractLsb' 0 32 }) ∈ registerWrites State.reset 7#32 ∧
      0x40000 = 0x40000 + 4 * 0 ∧ 0x7FFFC = 0x40000 + 4 * 65535 ∧ IgnoresWrites 0x3FFFC ∧ IgnoresWrites 0x80000 ∧
      IgnoresWrites 0x08 := by
  refine ⟨fun _ _ => ⟨rfl, rfl⟩, ?_, ?_, by decide, by decide, by unfold IgnoresWrites; decide,
    by unfold IgnoresWrites; decide, by unfold IgnoresWrites; decide⟩
  · simp only [List.forall_mem_cons, List.not_mem_nil, IsEmpty.forall_iff, implies_true, and_true]
    decide
  · simp [registerWrites]

/-- For `HalvesWriteInEitherOrder`: the reset state with the two writes of `TH` pending, in each order. -/
theorem witness_halvesWrite :
    ({ State.reset with inputs := [wr (configLo .th) 1#32, wr (configHi .th) 2#32] } : State).seq = .idle ∧
      ({ State.reset with inputs := [wr (configHi .th) 2#32, wr (configLo .th) 1#32] } : State).seq = .idle := ⟨rfl, rfl⟩

/-- A command accepted after reset, before its turn, meets the invariant. -/
theorem running_inv (c : Word) (inputs : List Input) : Inv (running c inputs) where
  len_le := Nat.zero_le _
  nsamp_le := Nat.zero_le _
  width_le := Nat.zero_le _
  width_pos h := absurd h (Nat.lt_irrefl 0)
  mem_wf := rfl
  iqi_range _ h := absurd h (Nat.not_lt_zero _)
  iqq_range _ h := absurd h (Nat.not_lt_zero _)
  run r h := by
    cases h
    exact ⟨Nat.zero_le _, rfl, rfl, rfl, rfl, rfl, fun h => by cases h⟩
  results h := by cases h

/-- For `StatusReadsDefinedFieldsWhileBusy`: a read of `STATUS` while `REORDER`, which opens neither field, runs. -/
theorem witness_statusReads :
    Inv (running 0x00000003#32 [rd .status]) ∧ (∃ r, (running 0x00000003#32 [rd .status]).seq = .run r ∧
        r.word ≠ 0x00000001#32 ∧ r.word ≠ 0x00000002#32 ∧ r.word ≠ 0x00000005#32) ∧
      (running 0x00000003#32 [rd .status]).inputs = .access (.read 0x08#32 .bits32) :: [] ∧
      (0x08#32).toNat % 2 ^ 21 = 8 := by
  exact ⟨running_inv _ _, ⟨_, rfl, by decide, by decide, by decide⟩, rfl, by decide⟩

/-- For `UnwrittenStateReadsLiveWhileBusy`: reads while words run, and for each word offsets next to what it writes: `LAYOUT` with
`CLEAR`; `WORD[3]` and `WORD[8]` with `FRAME_PUSH` at `LEN = 4`; `NSPEC` and `WORD[8]` with `REORDER` at `LEN = 8`; `LEN`,
`LINE_ADDR`, the last of `WORD` and the first of `SPEC` with `UNPACK`; `TH_HI`, 0x84, the last of `IQQ` and 0x1C0000 with `ANALYZE`;
`LEN`, `IQI[0]` and the last of `CLASS` with `NOP` and a reserved word. -/
theorem witness_unwrittenStateReads :
    (∀ c : Word, ∃ r, (running c [busRead 0x14]).seq = .run r ∧ r.word = c) ∧
      (∀ c : Word, (running c [busRead 0x14]).inputs = .access (.read 0x14#32 .bits32) :: []) ∧
      (0x14#32).toNat % 4 = 0 ∧ UnwrittenOffset 0x01#32 0 0x18 ∧ UnwrittenOffset 0x02#32 4 0x4000C ∧
      UnwrittenOffset 0x02#32 4 0x40020 ∧ UnwrittenOffset 0x03#32 8 0x80 ∧ UnwrittenOffset 0x03#32 8 0x40020 ∧
      UnwrittenOffset 0x04#32 8 0x14 ∧ UnwrittenOffset 0x04#32 8 0x24 ∧ UnwrittenOffset 0x04#32 8 0x7FFFC ∧
      UnwrittenOffset 0x04#32 8 0x100000 ∧ UnwrittenOffset 0x05#32 8 0x5C ∧ UnwrittenOffset 0x05#32 8 0x84 ∧
      UnwrittenOffset 0x05#32 8 0xFFFFC ∧ UnwrittenOffset 0x05#32 8 0x1C0000 ∧ UnwrittenOffset 0x00#32 8 0x14 ∧
      UnwrittenOffset 0x00#32 8 0x80000 ∧ UnwrittenOffset 0x06#32 8 0x14 ∧ UnwrittenOffset 0x06#32 8 0x1BFFFC := by
  refine ⟨fun _ => ⟨_, rfl, rfl⟩, fun _ => rfl, by decide, ?_, ?_, ?_, ?_, ?_, ?_, ?_, ?_, ?_, ?_, ?_, ?_, ?_, ?_, ?_, ?_,
    ?_⟩ <;> (unfold UnwrittenOffset; decide)

/-- For `HazardousWritesAreRefused`: writes of the first and the last element of `WORD` while `FRAME_PUSH`, `REORDER` and `UNPACK`
run, and of `LEN` while `CLEAR` and `FRAME_PUSH` run. -/
theorem witness_hazardousWrites :
    (∀ c : Word, ∃ r, (running c [wrWord 0 1#32]).seq = .run r ∧ r.word = c) ∧
      (∀ c : Word, (running c [wrWord 0 1#32]).inputs = wrWord 0 1#32 :: [] ∧
        (running c [wrWord 65535 1#32]).inputs = wrWord 65535 1#32 :: [] ∧
        (running c [wr .len 65537#32]).inputs = wr .len 65537#32 :: []) := by
  exact ⟨fun _ => ⟨_, rfl, rfl⟩, fun _ => ⟨rfl, rfl, rfl⟩⟩

/-- For `SafeWritesStoreWhileBusy`: `LEN` and `WORD` while `ANALYZE` runs, `TH` while `CLEAR` runs, and an ignored address. -/
theorem witness_safeWrites :
    (∃ r, (running 0x00000005#32 [busWrite 0x14 9#32]).seq = .run r ∧ r.word = 0x00000005#32) ∧
      (running 0x00000005#32 [busWrite 0x14 9#32]).inputs = .access (.write 0x14#32 .bits32 9#32) :: [] ∧
      (∃ e ∈ registerWrites (running 0x00000005#32 [busWrite 0x14 9#32]) 9#32, e.1 = 0x14) ∧
      (running 0x00000005#32 [busWrite 0x7FFFC 9#32]).inputs = .access (.write 0x7FFFC#32 .bits32 9#32) :: [] ∧
      0x7FFFC = 0x40000 + 4 * 65535 ∧
      (∃ r, (running 0x00000001#32 [busWrite 0x5C 9#32]).seq = .run r ∧ r.word = 0x00000001#32) ∧
      (running 0x00000001#32 [busWrite 0x5C 9#32]).inputs = .access (.write 0x5C#32 .bits32 9#32) :: [] ∧
      IgnoresWrites 0x84 ∧ (0x5C#32).toNat % 4 = 0 ∧ (0x14#32).toNat % 4 = 0 ∧ (0x7FFFC#32).toNat % 4 = 0 := by
  refine ⟨⟨_, rfl, rfl⟩, rfl, ?_, rfl, by decide, ⟨_, rfl, rfl⟩, rfl, ?_, by decide, by decide, by decide⟩
  · simp [registerWrites]
  · unfold IgnoresWrites
    decide

/-- For `MalformedAccessesAreRefused`: a byte access, a misaligned access and a second master. -/
theorem witness_malformedAccesses :
    AccessSize.bits8 ≠ .bits32 ∧ (0x09#32).toNat % 4 ≠ 0 ∧
      (pending (.access (.read 0x08#32 .bits8))).inputs = .access (.read 0x08#32 .bits8) :: [] ∧
      (pending (.access (.write 0x09#32 .bits32 0#32))).inputs = .access (.write 0x09#32 .bits32 0#32) :: [] ∧
      (pending .otherMaster).inputs = .otherMaster :: [] := ⟨by decide, by decide, rfl, rfl, rfl⟩

/-- For `RunningCommandReadsItsSnapshot`: a running command, and one whose `LEN` may be rewritten. -/
theorem witness_runningCommand :
    (∃ r, (running 0x00000002#32 []).seq = .run r) ∧ (∃ r, (running 0x00000004#32 []).seq = .run r) ∧
      Instr.unpack ≠ .clear ∧ Instr.unpack ≠ .framePush := ⟨⟨_, rfl⟩, ⟨_, rfl⟩, by decide, by decide⟩

/-- For `DutifulInputsAreAccepted`: a poll of `STATUS`'s neighbour `BASE` while a command runs, and a write while idle. -/
theorem witness_dutifulInputs :
    (running 0x00000005#32 [rd .base]).inputs = rd .base :: [] ∧
      dutiful (running 0x00000005#32 [rd .base]) (rd .base) = true ∧
      dutiful (pending (wrWord 65535 1#32)) (wrWord 65535 1#32) = true := ⟨rfl, by decide, by decide⟩

/-- For `ContractFaultsOutOfContract`: a running `ANALYZE` of no samples completes with `EMPTY`; a running `NOP` completes with `OK`
and is no analysis; the idle reset state, and a read while `ANALYZE` runs, which is no turn. `witness_logDomain` is for the
clause of `LOG_DOMAIN`. -/
theorem witness_contractFaults :
    (∃ r t, (running 0x00000005#32 []).seq = .run r ∧ TurnNext (running 0x00000005#32 []) ∧
        step (running 0x00000005#32 []) = .next t ∧ t.err = .empty) ∧
      (∃ r t, (running 0x00000000#32 [.turn]).seq = .run r ∧ TurnNext (running 0x00000000#32 [.turn]) ∧
        step (running 0x00000000#32 [.turn]) = .next t ∧ t.err ≠ .empty ∧ t.err ≠ .logDomain ∧
        ¬ AnalyzesNearLogDomain (running 0x00000000#32 [.turn])) ∧
      ((∃ t, step State.reset = .next t) ∧ State.reset.seq = .idle) ∧
      ((∃ t, step (running 0x00000005#32 [rd .base]) = .next t) ∧ ¬ TurnNext (running 0x00000005#32 [rd .base])) := by
  refine ⟨⟨_, _, rfl, .inl rfl, rfl, rfl⟩, ⟨_, _, rfl, .inr ⟨_, rfl⟩, rfl, by decide, by decide, ?_⟩, ⟨⟨_, rfl⟩, rfl⟩,
    ⟨_, rfl⟩, ?_⟩
  · rintro ⟨r, p, hr, hd, -⟩
    cases hr
    exact absurd hd (by decide)
  · rintro (h | ⟨rest, h⟩) <;> cases h

/-- A running `ANALYZE` of one sample that is zero, at `FS = 1`: 42_analyze.md R155's "all-zero input". -/
def silenceRunning : State := ({ samplesLoaded [0] [0] with fs := 0x3FF0000000000000#64 } : State).startRun 0x00000005#32

/-- The snapshot of `silenceRunning`. -/
def silenceRun : Run :=
  { word := 0x00000005#32, dropped := false
    snap := ({ samplesLoaded [0] [0] with fs := 0x3FF0000000000000#64 } : State).snapshot }

/-- The power of the DC bin of one zero sample is 0. -/
theorem dcPower_silence : (inputOf [(0, 0)]).dcPower = 0 := by
  have h : (inputOf [(0, 0)]).transform 0 = 0 :=
    Finset.sum_eq_zero fun n _ => by
      have : (inputOf [(0, 0)]).sample n = 0 := by cases n <;> apply Complex.ext <;> simp [AnalyzeInput.sample, inputOf]
      rw [this, zero_mul]
  rw [AnalyzeInput.dcPower, AnalyzeInput.unshiftedPower, h]
  simp

/-- What `silenceRunning` analyzes: a band that is not empty, and a DC argument not above `N·TOL_P` whatever `TOL_P` is. -/
theorem silence_operands :
    silenceRun.snap.nsamp ≠ 0#17 ∧ silenceRun.snap.params = some ⟨1, 3 / 4, 1, 10⟩ ∧
      inputOf [(0, 0)] = analyzeInput silenceRunning.mem silenceRun.snap ⟨1, 3 / 4, 1, 10⟩ ∧
      (inputOf [(0, 0)]).band = [0] := by decide +kernel

/-- For `ContractFaultsNearLogDomain`: an all-zero input, under the classification made and under the reference's. -/
theorem witness_contractNearLogDomain :
    WordRuns 0x00000005#32 silenceRunning silenceRun ∧ silenceRun.snap.nsamp ≠ 0#17 ∧
      silenceRun.snap.params = some ⟨1, 3 / 4, 1, 10⟩ ∧
      inputOf [(0, 0)] = analyzeInput silenceRunning.mem silenceRun.snap ⟨1, 3 / 4, 1, 10⟩ ∧
      (inputOf [(0, 0)]).band ≠ [] ∧
      (∀ k, (inputOf [(0, 0)]).referenceTone k = true ↔ (inputOf [(0, 0)]).threshold < (inputOf [(0, 0)]).power k) ∧
      (inputOf [(0, 0)]).dcPower ≤ ((inputOf [(0, 0)]).length : ℝ) * (Config.numerics.tolP : ℝ) := by
  obtain ⟨h1, h2, h3, h4⟩ := silence_operands
  refine ⟨⟨rfl, rfl, .inl rfl⟩, h1, h2, h3, by rw [h4]; decide, fun k => by simp [AnalyzeInput.referenceTone], ?_⟩
  rw [dcPower_silence]
  have : (0 : ℝ) ≤ (Config.numerics.tolP : ℝ) := by exact_mod_cast Config.numerics.tolP_nonneg
  positivity

/-- For the `LOG_DOMAIN` clause of `ContractFaultsOutOfContract`: with `TOL_P = 0`, under which 42_analyze.md R172 item 4 forces
the code, the analysis of a zero sample completes with it. -/
theorem witness_logDomain (h0 : Config.numerics.tolP = 0) :
    ∃ t, silenceRunning.seq = .run silenceRun ∧ TurnNext silenceRunning ∧ step silenceRunning = .next t ∧
      t.err = .logDomain := by
  obtain ⟨h1, h2, h3, h4⟩ := silence_operands
  have hr : (inputOf [(0, 0)]).InRange := by
    have hz : IsComponent 14 0 := ⟨0, by decide, by decide, by simp⟩
    refine ⟨by decide, ⟨14, by decide, by decide, by simpa [inputOf] using hz⟩, ⟨⟨0x3FF0000000000000#64, ?_⟩,
      ⟨0x3FE8000000000000#64, ?_⟩, ⟨0x3FF0000000000000#64, ?_⟩, ⟨0x4024000000000000#64, ?_⟩, by simp [inputOf],
      by simp [inputOf]⟩, by rw [h4]; decide⟩ <;> decide +kernel
  have hl := (Config.numerics.conforms _ hr).zero h0
    ⟨(inputOf [(0, 0)]).dcPower, by simp [AnalyzeInput.logArgs, AnalyzeInput.logArgsOf], by
      rw [dcPower_silence, h0, Rat.cast_zero, mul_zero]⟩
  refine ⟨silenceRunning.finishAnalysis (inputOf [(0, 0)]) (Config.numerics.outcome (inputOf [(0, 0)])), rfl, .inl rfl, ?_, ?_⟩
  · have hs : step silenceRunning = execAnalyze silenceRunning := by
      rw [step_no_input rfl, sequencerTurn_run (r := silenceRun) rfl]
      exact runCommand_ok (i := .analyze) decode_word_analyze _
    have ho : silenceRunning.operands = silenceRun.snap := rfl
    rw [hs]
    rcases execAnalyze_cases silenceRunning with ⟨h, -⟩ | ⟨-, h, -⟩ | ⟨p, -, hp, hb, -⟩ | ⟨p, -, hp, -, e⟩
    · exact absurd (BitVec.eq_of_toNat_eq h) h1
    · rw [ho, h2] at h; cases h
    · rw [ho, h2] at hp; cases hp
      rw [ho, ← h3, h4] at hb; cases hb
    · rw [ho, h2] at hp; cases hp
      rw [e, ho, ← h3]
  · simp [State.finishAnalysis, hl]

/-- The reset state after an analysis of one sample in band that completed with `OK`. -/
def analyzed : State := { State.reset with done := true, nspec := 1#17, nband := 1#32, lastAnalysis := some .ok }

/-- That state meets the invariant. -/
theorem analyzed_inv : Inv analyzed where
  len_le := Nat.zero_le _
  nsamp_le := Nat.zero_le _
  width_le := Nat.zero_le _
  width_pos h := absurd h (Nat.lt_irrefl 0)
  mem_wf := rfl
  iqi_range _ h := absurd h (Nat.not_lt_zero _)
  iqq_range _ h := absurd h (Nat.not_lt_zero _)
  run r h := by cases h
  results _ := ⟨by decide, by decide, by decide, by decide, by decide, fun _ => rfl⟩

/-- For `ResultsAreMeaningfulOnlyAfterOkAnalysis`: the turn of an `ANALYZE`; a reset; and an idle step after an `OK` analysis, whose
results are meaningful. -/
theorem witness_resultsMeaningful :
    (Inv (running 0x00000005#32 []) ∧ (∃ t, step (running 0x00000005#32 []) = .next t) ∧
        ∃ r, WordRuns 0x00000005#32 (running 0x00000005#32 []) r) ∧
      (Inv (running 0x00000005#32 [.reset]) ∧ (∃ t, step (running 0x00000005#32 [.reset]) = .next t) ∧
        ResetNext (running 0x00000005#32 [.reset])) ∧
      (Inv analyzed ∧ (∃ t, step analyzed = .next t ∧ resultsValid t = true) ∧
        ¬ (∃ r, WordRuns 0x00000005#32 analyzed r) ∧ ¬ ResetNext analyzed) := by
  refine ⟨⟨running_inv _ _, ⟨_, rfl⟩, _, rfl, rfl, .inl rfl⟩, ⟨running_inv _ _, ⟨_, rfl⟩, _, rfl⟩, analyzed_inv,
    ⟨_, rfl, by decide⟩, ?_, ?_⟩
  · rintro ⟨r, h, -⟩
    cases h
  · rintro ⟨rest, h⟩
    cases h

/-- For `ResetAbandonsAnyRun`: a reset that arrives while a command runs. -/
theorem witness_resetAbandons : (running 0x00000005#32 [.reset]).inputs = .reset :: [] := rfl

/-- For `EveryStepKeepsInvariant`: a running `CLEAR` meets the invariant and takes a step. -/
theorem witness_everyStepKeeps :
    Inv (running 0x00000001#32 []) ∧ ∃ t, step (running 0x00000001#32 []) = .next t := ⟨running_inv _ _, _, rfl⟩

/-- For `StickyBitsClearOnlyByClearOrReset`: both sticky bits set, while `NOP` and while `CLEAR` runs, and at a reset. -/
theorem witness_stickyBits :
    (∃ t, step { running 0x00000000#32 [] with frameBad := true, overrun := true } = .next t ∧ t.frameBad = true) ∧
      (∃ t, step { running 0x00000001#32 [] with frameBad := true, overrun := true } = .next t ∧ t.frameBad = false) ∧
      (∃ t, step { running 0x00000001#32 [.reset] with frameBad := true, overrun := true } = .next t ∧
        t.overrun = false) := by
  exact ⟨⟨_, rfl, rfl⟩, ⟨_, rfl, rfl⟩, ⟨_, rfl, rfl⟩⟩

end Sys2Proof.Tests
end

section
/-!
PROOFS of the state family (10_state.md): the values the reset parameters denote (O28), the bits of STATUS (O55), the 64-bit
registers written by halves (O43), the snapshot of a running command (O50), and the invariant of Safety.lean along every
step (O57).
-/
namespace Sys2Proof.Machine

open Statements

/-! ## The value of a binary64 encoding (30_encoding.md R87) -/

/-- The value of a normal encoding whose fields are known and whose significand is scaled down. -/
theorem binary64Value_normal {b : DWord} {sign : Bool} {e f : Nat}
    (hb : binary64Sign b = sign ∧ binary64Exponent b = e ∧ binary64Fraction b = f) (h0 : 0 < e) (h : e < 1075) :
    binary64Value b = some ((if sign then -1 else 1) * (((2 ^ 52 + f : Nat) : Rat) / (2 ^ (1075 - e) : Nat))) := by
  obtain ⟨rfl, rfl, rfl⟩ := hb
  rw [binary64Value, if_neg (by omega), binary64Magnitude, if_neg (by omega), if_neg (by omega)]
  cases binary64Sign b <;> simp

/-- An encoding whose exponent field is 0x7FF, an infinity or a NaN, denotes nothing. -/
theorem binary64Value_not_finite {b : DWord} (h : binary64Exponent b = 0x7FF) : binary64Value b = none := by
  rw [binary64Value, if_pos h]

/-- Settles O28: `+0.0`, the fields of four normal encodings, and two encodings with exponent field 0x7FF. -/
theorem resetParametersDenoteTheirValues : Obligations.ResetParametersDenoteTheirValues := by
  refine ⟨binary64Value_zero, ?cf, ?bw, ?th, binary64Value_not_finite (by decide), binary64Value_not_finite (by decide),
    ?minusOne⟩
  case cf =>
    rw [binary64Value_normal (sign := false) (e := 1022) (f := 2 ^ 51) (by decide) (by decide) (by decide)]
    norm_num
  case bw =>
    rw [binary64Value_normal (sign := false) (e := 1023) (f := 0) (by decide) (by decide) (by decide)]
    norm_num
  case th =>
    rw [binary64Value_normal (sign := false) (e := 1026) (f := 2 ^ 50) (by decide) (by decide) (by decide)]
    norm_num
  case minusOne =>
    rw [binary64Value_normal (sign := true) (e := 1023) (f := 0) (by decide) (by decide) (by decide)]
    norm_num

/-! ## The bits of STATUS (10_state.md R23) -/

/-- `STATUS` as its bits, from the lowest field up. -/
theorem getLsbD_statusOf (busy done frameBad overrun toneValid : Bool) (err : ErrCode) (i : Nat) :
    (statusOf busy done frameBad overrun toneValid err).getLsbD i =
      (0#20 ++ err.code ++ 0#3 ++ BitVec.ofBool toneValid ++ BitVec.ofBool overrun ++ BitVec.ofBool frameBad ++
        BitVec.ofBool done ++ BitVec.ofBool busy).getLsbD i := rfl

/-- The five flags stand in bits 0 to 4. -/
theorem flags_statusOf (busy done frameBad overrun toneValid : Bool) (err : ErrCode) :
    (statusOf busy done frameBad overrun toneValid err).getLsbD 0 = busy ∧
      (statusOf busy done frameBad overrun toneValid err).getLsbD 1 = done ∧
      (statusOf busy done frameBad overrun toneValid err).getLsbD 2 = frameBad ∧
      (statusOf busy done frameBad overrun toneValid err).getLsbD 3 = overrun ∧
      (statusOf busy done frameBad overrun toneValid err).getLsbD 4 = toneValid := by
  simp only [getLsbD_statusOf, BitVec.getLsbD_append, BitVec.getLsbD_ofBool]
  simp

/-- Above the flags, the code's four bits stand from bit 8 on, with 0 below and above them. -/
theorem getLsbD_statusOf_above_flags (busy done frameBad overrun toneValid : Bool) (err : ErrCode) (i : Nat) :
    (statusOf busy done frameBad overrun toneValid err).getLsbD (5 + i) =
      if i < 3 then false else err.code.getLsbD (i - 3) := by
  rw [Nat.add_comm]
  simp only [getLsbD_statusOf, BitVec.getLsbD_append, BitVec.getLsbD_ofBool]
  by_cases hlow : i < 3
  · simp [hlow]
  · by_cases hcode : i - 3 < 4
    · simp [hlow, hcode]
    · simp [hlow, hcode, BitVec.getLsbD_of_ge err.code (i - 3) (by omega)]

/-- `BUSY` is 1 exactly while a command runs (10_state.md R45). -/
theorem State.busy_iff (s : State) : s.busy = true ↔ ∃ r, s.seq = .run r := by
  unfold State.busy
  cases s.seq <;> simp [Seq.isRun]

/-- Settles O55: the flags one by one, and the three fields above them bit by bit. -/
theorem statusBitsStandInTheirPlaces : Obligations.StatusBitsStandInTheirPlaces := by
  intro s
  obtain ⟨hbusy, hdone, hframeBad, hoverrun, htoneValid⟩ :=
    flags_statusOf s.busy s.done s.frameBad s.overrun s.toneValid s.err
  have habove (i : Nat) :=
    getLsbD_statusOf_above_flags s.busy s.done s.frameBad s.overrun s.toneValid s.err i
  have hcode : s.status.extractLsb' 8 4 = s.err.code := by
    ext i hi
    rw [BitVec.getElem_extractLsb', State.status, show 8 + i = 5 + (3 + i) by omega, habove]
    simp [hi]
  refine ⟨?busy, hdone, hframeBad, hoverrun, htoneValid, ?low, ?high, ?code⟩
  case busy => rw [State.status, hbusy]; exact s.busy_iff
  case low =>
    ext i hi
    rw [BitVec.getElem_extractLsb', State.status, habove]
    simp [hi]
  case high =>
    ext i hi
    rw [BitVec.getElem_extractLsb', State.status, show 12 + i = 5 + (7 + i) by omega, habove,
      if_neg (by omega), BitVec.getLsbD_of_ge _ _ (by omega)]
    simp
  case code => rw [hcode]; cases s.err <;> rfl

/-! ## A 64-bit configuration register by name -/

/-- The value of a 64-bit configuration register (10_state.md R31, R37 to R39). -/
def State.config64 (s : State) : Config64 → DWord
  | .fs => s.fs
  | .cf => s.cf
  | .bw => s.bw
  | .th => s.th

/-- The state with a 64-bit configuration register replaced. -/
def State.setConfig64 (s : State) (x : Config64) (d : DWord) : State :=
  match x with
  | .fs => { s with fs := d }
  | .cf => { s with cf := d }
  | .bw => { s with bw := d }
  | .th => { s with th := d }

/-- The state with its pending inputs replaced. -/
def State.withInputs (s : State) (rest : List Input) : State := { s with inputs := rest }

section
variable (s : State) (x : Config64) (d e : DWord) (rest rest' : List Input)

@[simp] theorem State.setConfig64_seq : (s.setConfig64 x d).seq = s.seq := by cases x <;> rfl

@[simp] theorem State.setConfig64_config64 : (s.setConfig64 x d).config64 x = d := by cases x <;> rfl

/-- Of two replacements of one register the second stands. -/
@[simp] theorem State.setConfig64_setConfig64 : (s.setConfig64 x d).setConfig64 x e = s.setConfig64 x e := by
  cases x <;> rfl

@[simp] theorem State.withInputs_seq : (s.withInputs rest).seq = s.seq := rfl

@[simp] theorem State.withInputs_config64 : (s.withInputs rest).config64 x = s.config64 x := by cases x <;> rfl

@[simp] theorem State.withInputs_setConfig64 : (s.withInputs rest).setConfig64 x d = (s.setConfig64 x d).withInputs rest := by
  cases x <;> rfl

@[simp] theorem State.withInputs_withInputs : (s.withInputs rest).withInputs rest' = s.withInputs rest' := rfl

end

/-- The low half and then the high half leave nothing of the old value. -/
@[simp] theorem setHi_setLo (d : DWord) (lo hi : Word) : setHi (setLo d lo) hi = hi ++ lo := by
  rw [setHi, loHalf_setLo]

/-- So do the high half and then the low half. -/
@[simp] theorem setLo_setHi (d : DWord) (lo hi : Word) : setLo (setHi d hi) lo = hi ++ lo := by
  rw [setLo, hiHalf_setHi]

/-! ## Taking the write of a half -/

/-- `wr X_LO, v`, taken while idle, replaces bits 31:0 of `X`. -/
theorem steps_wr_configLo {s : State} {x : Config64} {v : Word} {rest : List Input} (k : Nat) (h : s.seq = .idle)
    (hin : s.inputs = wr (configLo x) v :: rest) :
    steps (k + 1) s = steps k ((s.setConfig64 x (setLo (s.config64 x) v)).withInputs rest) := by
  rw [steps_wr_idle k h hin]
  cases x <;> rfl

/-- `wr X_HI, v`, taken while idle, replaces bits 63:32 of `X`. -/
theorem steps_wr_configHi {s : State} {x : Config64} {v : Word} {rest : List Input} (k : Nat) (h : s.seq = .idle)
    (hin : s.inputs = wr (configHi x) v :: rest) :
    steps (k + 1) s = steps k ((s.setConfig64 x (setHi (s.config64 x) v)).withInputs rest) := by
  rw [steps_wr_idle k h hin]
  cases x <;> rfl

/-- Settles O43: in each order the second write keeps the half the first has written. -/
theorem halvesWriteInEitherOrder : Obligations.HalvesWriteInEitherOrder := by
  intro s x lo hi h hin
  have hboth : steps 2 s = .next ((s.setConfig64 x (hi ++ lo)).withInputs []) := by
    rcases hin with hin | hin
    · rw [steps_wr_configLo 1 h hin, steps_wr_configHi 0 (by simpa using h) rfl]
      simp
    · rw [steps_wr_configHi 1 h hin, steps_wr_configLo 0 (by simpa using h) rfl]
      simp
  rw [hboth]
  cases x <;> rfl

/-! ## Registers the host may replace during a run (10_state.md R45) -/

/-- The host's live registers replaced during a run, `LEN` by a function of its old value: the identity where the host may
not write it, a constant where it may (70_reset_and_hazards.md R217(b)). -/
def replaceLive (newLen : BitVec 17 → BitVec 17) (s v : State) : State :=
  { rewriteRegisters s v with len := newLen s.len }

/-- Command `i` in state `s` does the same whatever the live registers hold, and passes them through. -/
def IgnoresLive (newLen : BitVec 17 → BitVec 17) (i : Instr) (s : State) : Prop :=
  ∀ v, exec i (replaceLive newLen s v) = mapNext (fun t => replaceLive newLen t v) (exec i s)

section
variable (newLen : BitVec 17 → BitVec 17)

/-- A running command's operands are its snapshot, whatever the live registers hold. -/
theorem operands_replaceLive {s : State} {r : Run} (h : s.seq = .run r) (v : State) :
    (replaceLive newLen s v).operands = s.operands := by
  have h' : (replaceLive newLen s v).seq = .run r := h
  rw [State.operands_run h, State.operands_run h']

theorem nop_ignoresLive (s : State) : IgnoresLive newLen .nop s := fun _ => rfl

/-- `CLEAR` reads nothing but the flag of a dropped word, which is the run's. -/
theorem clear_ignoresLive (s : State) : IgnoresLive id .clear s := fun _ => rfl

theorem framePush_ignoresLive {s : State} {r : Run} (h : s.seq = .run r) : IgnoresLive id .framePush s := by
  intro v
  simp only [exec, execFramePush, operands_replaceLive id h v]
  split_ifs <;> rfl

theorem reorder_ignoresLive {s : State} {r : Run} (h : s.seq = .run r) : IgnoresLive newLen .reorder s := by
  intro v
  simp only [exec, execReorder, operands_replaceLive newLen h v]
  split_ifs <;> rfl

theorem unpack_ignoresLive {s : State} {r : Run} (h : s.seq = .run r) : IgnoresLive newLen .unpack s := by
  intro v
  simp only [exec, execUnpack, operands_replaceLive newLen h v]
  split_ifs <;> rfl

/-- The end of an analysis writes no live register. -/
theorem finishAnalysis_replaceLive (s v : State) (inp : AnalyzeInput) (o : AnalyzeOutcome) :
    (replaceLive newLen s v).finishAnalysis inp o = replaceLive newLen (s.finishAnalysis inp o) v := by
  unfold State.finishAnalysis
  cases o.logDomain <;> rfl

theorem analyze_ignoresLive {s : State} {r : Run} (h : s.seq = .run r) : IgnoresLive newLen .analyze s := by
  intro v
  have hmem : (replaceLive newLen s v).mem = s.mem := rfl
  simp only [exec, execAnalyze, operands_replaceLive newLen h v, hmem, finishAnalysis_replaceLive]
  split_ifs
  · rfl
  · cases s.operands.params with
    | none => rfl
    | some p => dsimp only; split_ifs <;> rfl

end

/-- Settles O50: every command ignores the live registers with `LEN` kept, and all but `CLEAR` and `FRAME_PUSH` with `LEN`
replaced too. -/
theorem runningCommandReadsItsSnapshot : Obligations.RunningCommandReadsItsSnapshot := by
  intro i s v r h
  cases i with
  | nop => exact ⟨nop_ignoresLive id s v, fun _ _ => nop_ignoresLive (fun _ => v.len) s v⟩
  | clear => exact ⟨clear_ignoresLive s v, fun hc => absurd rfl hc⟩
  | framePush => exact ⟨framePush_ignoresLive h v, fun _ hf => absurd rfl hf⟩
  | reorder => exact ⟨reorder_ignoresLive id h v, fun _ _ => reorder_ignoresLive (fun _ => v.len) h v⟩
  | unpack => exact ⟨unpack_ignoresLive id h v, fun _ _ => unpack_ignoresLive (fun _ => v.len) h v⟩
  | analyze => exact ⟨analyze_ignoresLive id h v, fun _ _ => analyze_ignoresLive (fun _ => v.len) h v⟩

end Sys2Proof.Machine

namespace Sys2Proof.Safety

open Sys2Proof.Machine Sys2Proof.Statements

/-! ## The parts of the invariant -/

/-- The part of the invariant about `LEN`, `NSAMP`, `SAMPLE_WIDTH` and the buffers. It is said of the four values and not of a
state, so that an update of any other field keeps it by definition. -/
structure BuffersInv (len nsamp : BitVec 17) (width : BitVec 5) (m : Memory) : Prop where
  len_le : len.toNat ≤ Config.capacity
  nsamp_le : nsamp.toNat ≤ Config.capacity
  width_le : width.toNat ≤ 30
  width_pos : 0 < nsamp.toNat → 1 ≤ width.toNat
  mem_wf : m.wf = true
  iqi_range : ∀ n < nsamp.toNat, InWidth width.toNat (m.readWord (iqiAddr n))
  iqq_range : ∀ n < nsamp.toNat, InWidth width.toNat (m.readWord (iqqAddr n))

/-- That part, of the values a state holds. -/
abbrev BuffersOk (s : State) : Prop := BuffersInv s.len s.nsamp s.sampleWidth s.mem

/-- The invariant is its three parts: the buffers, the run and the results. -/
theorem inv_iff (s : State) :
    Inv s ↔ BuffersOk s ∧ (∀ r, s.seq = .run r → RunInv s r) ∧ (s.lastAnalysis = some .ok → ResultsInv s) :=
  ⟨fun h => ⟨⟨h.len_le, h.nsamp_le, h.width_le, h.width_pos, h.mem_wf, h.iqi_range, h.iqq_range⟩, h.run, h.results⟩,
    fun ⟨h, hrun, hres⟩ =>
      ⟨h.len_le, h.nsamp_le, h.width_le, h.width_pos, h.mem_wf, h.iqi_range, h.iqq_range, hrun, hres⟩⟩

theorem Inv.buffers {s : State} (h : Inv s) : BuffersOk s := ((inv_iff s).1 h).1

/-- A completion leaves no run, so it meets the invariant when the buffers and the results do. -/
theorem inv_complete {s : State} (e : ErrCode) (hb : BuffersOk s)
    (hr : s.lastAnalysis = some .ok → ResultsInv s) : Inv (s.complete e) :=
  (inv_iff _).2 ⟨hb, fun _ h => (nomatch h), fun h => { hr h with }⟩

/-- A completion of an analysis answers for the results only when its code is `OK`. -/
theorem inv_completeAnalysis {s : State} (e : ErrCode) (hb : BuffersOk s) (hr : e = .ok → ResultsInv s) :
    Inv (s.completeAnalysis e) :=
  (inv_iff _).2 ⟨hb, fun _ h => (nomatch h), fun h => { hr (Option.some.inj h) with }⟩

/-! ## Stores -/

/-- A store that keeps the canonical form and every word of `IQI` and `IQQ` keeps the buffers' part. -/
theorem BuffersInv.of_samples_kept {len nsamp : BitVec 17} {width : BitVec 5} {m m' : Memory}
    (h : BuffersInv len nsamp width m) (hwf : m'.wf = true)
    (hkeep : ∀ x, Config.iqiBase ≤ x → x + 4 ≤ Config.specBase → m'.readWord x = m.readWord x) :
    BuffersInv len nsamp width m' := by
  have hb := window_bases
  have hn : nsamp.toNat ≤ 65536 := h.nsamp_le
  refine { h with mem_wf := hwf, iqi_range := fun n hlt => ?_, iqq_range := fun n hlt => ?_ }
  · rw [hkeep _ (by unfold iqiAddr; omega) (by unfold iqiAddr; omega)]
    exact h.iqi_range n hlt
  · rw [hkeep _ (by unfold iqqAddr; omega) (by unfold iqqAddr; omega)]
    exact h.iqq_range n hlt

/-- Words stored inside the `WORD` window keep the buffers' part. -/
theorem BuffersInv.writeWords_word {len nsamp : BitVec 17} {width : BitVec 5} {m : Memory}
    (h : BuffersInv len nsamp width m) {n : Nat} {ws : List Word} (hn : n + ws.length ≤ Config.capacity) :
    BuffersInv len nsamp width (m.writeWords (wordAddr n) ws) := by
  have hb := window_bases
  have hn' : n + ws.length ≤ 65536 := hn
  have ha : wordAddr n = Config.wordBase + 4 * n := rfl
  exact h.of_samples_kept (Memory.wf_writeWords h.mem_wf (by omega) (by omega))
    fun x hx _ => Memory.readWord_writeWords_outside m (.inr (by omega))

/-- The spectrum and the classes of at most 65536 bins keep the buffers' part. -/
theorem BuffersInv.writeSpectrum {len nsamp : BitVec 17} {width : BitVec 5} {m : Memory}
    (h : BuffersInv len nsamp width m) {inp : AnalyzeInput} (o : AnalyzeOutcome) (hN : inp.length ≤ Config.capacity) :
    BuffersInv len nsamp width (m.writeSpectrum inp o) := by
  have hb := window_bases
  have hN' : inp.length ≤ 65536 := hN
  have hs : specAddr 0 = Config.specBase := rfl
  have hc : classAddr 0 = Config.classBase := rfl
  have hspec : ((List.range inp.length).map o.spec).length = inp.length := by simp
  have hcls : ((List.range inp.length).map (classWord inp o)).length = inp.length := by simp
  refine h.of_samples_kept ?_ fun x _ hx => ?_
  · exact Memory.wf_writeWords (Memory.wf_writeDWords h.mem_wf (by omega) (by omega)) (by omega) (by omega)
  · rw [Memory.writeSpectrum, Memory.readWord_writeWords_outside _ (.inl (by omega)),
      Memory.readWord_writeDWords_outside _ (.inl (by omega))]

/-- Forgetting the results keeps the buffers' part. -/
theorem BuffersInv.forgetResults {len nsamp : BitVec 17} {width : BitVec 5} {m : Memory}
    (h : BuffersInv len nsamp width m) (gen : Nat) : BuffersInv len nsamp width (m.forgetResults gen) :=
  h.of_samples_kept (Memory.wf_forgetResults h.mem_wf gen) fun _ _ hx => Memory.readWord_forgetResults m gen hx

/-! ## The range of an unpacked field -/

/-- The signed number of a `W`-bit field lies in the range of width `W` (00_scope.md R9). -/
theorem sext_bounds {width v : Nat} (hw : 1 ≤ width) (hv : v < 2 ^ width) :
    -(2 : Int) ^ (width - 1) ≤ sext width v ∧ sext width v < (2 : Int) ^ (width - 1) := by
  obtain ⟨k, rfl⟩ := Nat.exists_eq_add_of_le' hw
  have hv' : (v : Int) < 2 ^ k * 2 := by exact_mod_cast (pow_succ 2 k ▸ hv)
  unfold sext
  rw [Nat.add_sub_cancel, pow_succ]
  split
  · next h =>
    have h' : (2 : Int) ^ k ≤ v := by exact_mod_cast h
    constructor <;> omega
  · next h =>
    have h' : (v : Int) < 2 ^ k := by exact_mod_cast (not_le.1 h)
    constructor <;> omega

/-- A signed number of at most 32 bits is stored in a word unchanged. -/
theorem inWidth_ofInt {width : Nat} (hw : width ≤ 32) {z : Int}
    (hz : -(2 : Int) ^ (width - 1) ≤ z ∧ z < (2 : Int) ^ (width - 1)) : InWidth width (BitVec.ofInt 32 z) := by
  have hp : (2 : Int) ^ (width - 1) ≤ 2 ^ 31 := pow_le_pow_right₀ (by norm_num) (by omega)
  have he : (BitVec.ofInt 32 z).toInt = z := by
    rw [BitVec.toInt_ofInt]
    exact Int.bmod_eq_of_le (by norm_num at hp ⊢; omega) (by norm_num at hp ⊢; omega)
  unfold InWidth
  rwa [he]

/-- Whatever the word, a field of width `W` unpacks into the range of `W` (41_unpack.md R134, 10_state.md R41). -/
theorem inWidth_unpackField (w : Word) (lsb : Nat) {width : Nat} (h1 : 1 ≤ width) (h30 : width ≤ 30) :
    InWidth width (unpackField w lsb width) := by
  refine inWidth_ofInt (by omega) (sext_bounds h1 ?_)
  rw [rawField, Nat.and_two_pow_sub_one_eq_mod]
  exact Nat.mod_lt _ (by positivity)

/-- A legal layout's width lies from 1 to 30 (41_unpack.md R132). -/
theorem layoutWidth_bounds {l : Layout} (h : layoutLegal l = true) : 1 ≤ layoutWidth l ∧ layoutWidth l ≤ 30 := by
  simp only [layoutLegal, Bool.and_eq_true, decide_eq_true_eq] at h
  unfold layoutWidth
  omega

/-! ## What the commands leave -/

/-- An appended line keeps the buffers' part (40_frame.md R109). -/
theorem buffersOk_appendLine {s : State} (h : BuffersOk s) {S : Snapshot} (hS : S.len.toNat + 4 ≤ 65536) :
    BuffersOk (s.appendLine S) := by
  have hlen : (S.len + 4#17).toNat = S.len.toNat + 4 := by
    rw [BitVec.toNat_add, show (4#17).toNat = 4 from rfl, Nat.mod_eq_of_lt (by omega)]
  exact { h.writeWords_word (n := S.len.toNat) (ws := S.lineWords) hS with len_le := hlen ▸ hS }

/-- A rotated frame keeps the buffers' part (40_frame.md R114). -/
theorem buffersOk_rotateWords {s : State} (h : BuffersOk s) {L : Nat} (hL : L ≤ Config.capacity) (k : Nat) :
    BuffersOk (s.rotateWords L k) := by
  refine h.writeWords_word ?_
  simp only [rotateFrame, List.length_append, List.length_drop, List.length_take, Memory.length_readWords]
  omega

/-- A cleared frame keeps the buffers' part: it has no samples (40_frame.md R102). -/
theorem buffersOk_clearFrame {s : State} (h : BuffersOk s) : BuffersOk s.clearFrame :=
  { h with
    len_le := Nat.zero_le _
    nsamp_le := Nat.zero_le _
    width_pos := fun hn => absurd hn (Nat.lt_irrefl 0)
    iqi_range := fun _ hn => absurd hn (Nat.not_lt_zero _)
    iqq_range := fun _ hn => absurd hn (Nat.not_lt_zero _) }

/-- The samples of a legal layout keep the buffers' part (41_unpack.md R130, R132). -/
theorem buffersOk_unpackWords {s : State} (h : BuffersOk s) {S : Snapshot} (hS : S.len.toNat ≤ Config.capacity)
    (hl : layoutLegal (layoutOf S.layout) = true) : BuffersOk (s.unpackWords S) := by
  obtain ⟨h1, h30⟩ := layoutWidth_bounds hl
  have hb := window_bases
  have hS' : S.len.toNat ≤ 65536 := hS
  have hw : (BitVec.ofNat 5 (layoutWidth (layoutOf S.layout))).toNat = layoutWidth (layoutOf S.layout) := by
    rw [BitVec.toNat_ofNat, Nat.mod_eq_of_lt (by omega)]
  have hlen (f : Word → Word) : ((s.mem.readWords (wordAddr 0) S.len.toNat).map f).length = S.len.toNat := by simp
  have hi (n : Nat) : iqiAddr n = Config.iqiBase + 4 * n := rfl
  have hq (n : Nat) : iqqAddr n = Config.iqqBase + 4 * n := rfl
  constructor
  case len_le => exact h.len_le
  case nsamp_le => exact hS
  case width_le => exact hw ▸ h30
  case width_pos => exact fun _ => hw ▸ h1
  case mem_wf =>
    exact Memory.wf_writeWords (Memory.wf_writeWords h.mem_wf (by rw [hi]; omega) (by rw [hlen, hi]; omega))
      (by rw [hq]; omega) (by rw [hlen, hq]; omega)
  case iqi_range =>
    intro n hn
    have hn' : n < S.len.toNat := hn
    rw [State.unpackWords_sampleWidth, hw, State.unpackWords_mem,
      Memory.readWord_writeWords_outside _ (.inl (by rw [hi, hq]; omega)),
      show iqiAddr n = iqiAddr 0 + 4 * n from rfl, Memory.readWord_writeWords_inside _ _ (by rwa [hlen]),
      List.getElem_map]
    exact inWidth_unpackField _ _ h1 h30
  case iqq_range =>
    intro n hn
    have hn' : n < S.len.toNat := hn
    rw [State.unpackWords_sampleWidth, hw, State.unpackWords_mem,
      show iqqAddr n = iqqAddr 0 + 4 * n from rfl, Memory.readWord_writeWords_inside _ _ (by rwa [hlen]),
      List.getElem_map]
    exact inWidth_unpackField _ _ h1 h30

/-- No more tones than bins in band, and no more of those than bins (42_analyze.md R163, R165). -/
theorem length_tones_le (inp : AnalyzeInput) (o : AnalyzeOutcome) :
    (inp.tones o).length ≤ inp.band.length ∧ inp.band.length ≤ inp.length :=
  ⟨List.length_filter_le _ _, 
    (List.length_filter_le _ _).trans_eq List.length_range⟩

/-- The results of an analysis of 1 to 65536 samples are as the invariant says (42_analyze.md R168, R170). -/
theorem resultsInv_writeResults (s : State) {inp : AnalyzeInput} (o : AnalyzeOutcome) (h1 : 1 ≤ inp.length)
    (hN : inp.length ≤ Config.capacity) : ResultsInv (s.writeResults inp o) := by
  obtain ⟨htones, hband⟩ := length_tones_le inp o
  have hN' : inp.length ≤ 65536 := hN
  have hnspec : (BitVec.ofNat 17 inp.length).toNat = inp.length := by
    rw [BitVec.toNat_ofNat, Nat.mod_eq_of_lt (by omega)]
  have hnband : (BitVec.ofNat 32 inp.band.length).toNat = inp.band.length := by
    rw [BitVec.toNat_ofNat, Nat.mod_eq_of_lt (by omega)]
  have hntone : (BitVec.ofNat 32 (inp.tones o).length).toNat = (inp.tones o).length := by
    rw [BitVec.toNat_ofNat, Nat.mod_eq_of_lt (by omega)]
  constructor <;>
    simp only [State.writeResults_nspec, State.writeResults_nband, State.writeResults_ntone,
      State.writeResults_toneValid, State.writeResults_toneDb, hnspec, hnband, hntone]
  case nspec_pos => exact h1
  case nspec_le => exact hN
  case nband_le => exact hband
  case ntone_le => exact htones
  case toneValid_iff => simp
  case toneDb_eq => intro h; rw [if_pos (by simpa using h)]

/-! ## The sequencer's turn -/

/-- Every next state an outcome gives meets the invariant. -/
def LeavesInv (o : Host.Outcome State Fault Refusal) : Prop := ∀ t, o = .next t → Inv t

theorem leavesInv_next {t : State} (h : Inv t) : LeavesInv (.next t) := by
  rintro _ ⟨⟩
  exact h

/-- `FRAME_PUSH` leaves the invariant, from whatever run. -/
theorem execFramePush_leavesInv {s : State} (h : Inv s) : LeavesInv (execFramePush s) := by
  rcases execFramePush_cases s with ⟨-, e⟩ | ⟨-, -, e⟩ | ⟨-, -, -, e⟩ | ⟨-, -, hcap, e⟩ <;> rw [e] <;>
    refine leavesInv_next (inv_complete _ ?_ fun ha => { h.results ha with })
  case inr.inr.inr => exact buffersOk_appendLine h.buffers hcap
  all_goals exact h.buffers

/-- `REORDER` leaves the invariant when its operand `LEN` is within capacity. -/
theorem execReorder_leavesInv {s : State} (h : Inv s) (hlen : s.operands.len.toNat ≤ Config.capacity) :
    LeavesInv (execReorder s) := by
  rcases execReorder_cases s with ⟨-, e⟩ | ⟨-, -, e⟩ | ⟨-, -, -, e⟩ | ⟨-, -, e⟩ <;> rw [e] <;>
    refine leavesInv_next (inv_complete _ ?_ fun ha => { h.results ha with })
  case inr.inr.inr => exact buffersOk_rotateWords h.buffers hlen _
  all_goals exact h.buffers

/-- `UNPACK` leaves the invariant when its operand `LEN` is within capacity. -/
theorem execUnpack_leavesInv {s : State} (h : Inv s) (hlen : s.operands.len.toNat ≤ Config.capacity) :
    LeavesInv (execUnpack s) := by
  rcases execUnpack_cases s with ⟨-, e⟩ | ⟨-, -, e⟩ | ⟨-, hl, e⟩ <;> rw [e] <;>
    refine leavesInv_next (inv_complete _ ?_ fun ha => { h.results ha with })
  case inr.inr => exact buffersOk_unpackWords h.buffers hlen hl
  all_goals exact h.buffers

/-- `ANALYZE` leaves the invariant when its operand `NSAMP` is within capacity. -/
theorem execAnalyze_leavesInv {s : State} (h : Inv s) (hn : s.operands.nsamp.toNat ≤ Config.capacity) :
    LeavesInv (execAnalyze s) := by
  have hforget : BuffersOk s.forgetResults := h.buffers.forgetResults s.draws
  rcases execAnalyze_cases s with ⟨-, e⟩ | ⟨-, -, e⟩ | ⟨p, -, -, -, e⟩ | ⟨p, hpos, -, -, e⟩ <;> rw [e] <;>
    apply leavesInv_next
  · exact inv_completeAnalysis .empty h.buffers nofun
  · exact inv_completeAnalysis .param h.buffers nofun
  · exact inv_completeAnalysis .emptyBand hforget nofun
  · have hN := analyzeInput_length s.mem s.operands p
    generalize analyzeInput s.mem s.operands p = inp at hN ⊢
    rcases s.finishAnalysis_cases inp (Config.numerics.outcome inp) with ⟨-, ef⟩ | ⟨-, ef⟩ <;> rw [ef]
    · exact inv_completeAnalysis .logDomain hforget nofun
    · exact inv_completeAnalysis .ok (h.buffers.writeSpectrum _ (hN ▸ hn)) fun _ =>
        resultsInv_writeResults s _ (hN ▸ Nat.one_le_iff_ne_zero.2 hpos) (hN ▸ hn)

/-- Every command leaves the invariant from a run that meets it. -/
theorem exec_leavesInv {s : State} {r : Run} (h : Inv s) (hs : s.seq = .run r) (i : Instr) : LeavesInv (exec i s) := by
  have hrun := h.run r hs
  have hlen : s.operands.len.toNat ≤ Config.capacity := by rw [State.operands_run hs]; exact hrun.len_le
  cases i with
  | nop => exact leavesInv_next (inv_complete .ok h.buffers h.results)
  | clear =>
    exact leavesInv_next (inv_complete .ok (buffersOk_clearFrame h.buffers) fun ha => { h.results ha with })
  | framePush => exact execFramePush_leavesInv h
  | reorder => exact execReorder_leavesInv h hlen
  | unpack => exact execUnpack_leavesInv h hlen
  | analyze =>
    refine execAnalyze_leavesInv h ?_
    rw [State.operands_run hs, hrun.nsamp_eq]
    exact h.nsamp_le

/-- The sequencer's turn leaves the invariant: idle, on a command, and on a reserved word. -/
theorem sequencerTurn_leavesInv {s : State} (h : Inv s) : LeavesInv (sequencerTurn s) := by
  cases hs : s.seq with
  | idle => rw [sequencerTurn_idle hs]; exact leavesInv_next h
  | run r =>
    rw [sequencerTurn_run hs]
    cases hd : decode r.word with
    | ok i => rw [runCommand_ok hd]; exact exec_leavesInv h hs i
    | error e => rw [runCommand_error hd]; exact leavesInv_next (inv_complete _ h.buffers h.results)

/-! ## The host's accesses -/

/-- The pending inputs, the returned value and the count of draws are no part of the invariant. -/
theorem Inv.bookkeeping {s : State} (h : Inv s) (d : Nat) (v : Word) (rest : List Input) :
    Inv { s with draws := d, rdata := v, inputs := rest } :=
  (inv_iff _).2 ⟨h.buffers, fun r hr => { h.run r hr with }, fun ha => { h.results ha with }⟩

/-- Nor are the registers a host may replace during any run (10_state.md R45). -/
theorem Inv.rewriteRegisters {s : State} (h : Inv s) (v : State) : Inv (rewriteRegisters s v) :=
  (inv_iff _).2 ⟨h.buffers, fun r hr => { h.run r hr with }, fun ha => { h.results ha with }⟩

/-- A write of a register other than `CMD` and `LEN` replaces at most one of those registers. -/
theorem writeReg_eq_rewriteRegisters (s : State) (v : Word) {r : RegName} (hc : r ≠ .cmd) (hl : r ≠ .len) :
    s.writeReg r v = Statements.rewriteRegisters s (s.writeReg r v) := by
  cases r with
  | cmd => exact absurd rfl hc
  | len => exact absurd rfl hl
  | _ => rfl

/-- A write of `LEN` keeps the invariant, since a value above capacity is ignored (10_state.md R26). -/
theorem Inv.writeLen {s : State} (h : Inv s) (v : Word) : Inv (s.writeLen v) := by
  unfold State.writeLen
  split
  · next hv =>
    have hlen : (v.setWidth 17).toNat ≤ Config.capacity := by
      rw [BitVec.toNat_setWidth]
      exact (Nat.mod_le _ _).trans hv
    exact (inv_iff _).2
      ⟨{ h.buffers with len_le := hlen }, fun r hr => { h.run r hr with }, fun ha => { h.results ha with }⟩
  · exact h

/-- A write of `CMD` keeps the invariant: a fresh run's snapshot is the live registers, and a dropped word sets `OVERRUN`
(60_exceptions.md R190). -/
theorem Inv.issue {s : State} (h : Inv s) (c : Word) : Inv (s.issue c) := by
  cases hs : s.seq with
  | idle =>
    rw [State.issue_idle hs]
    refine (inv_iff _).2 ⟨h.buffers, fun r hr => ?_, fun ha => { h.results ha with }⟩
    cases hr
    exact ⟨h.len_le, rfl, rfl, rfl, rfl, rfl, nofun⟩
  | run r =>
    rw [State.issue_run hs]
    refine (inv_iff _).2 ⟨h.buffers, fun r' hr => ?_, fun ha => { h.results ha with }⟩
    cases hr
    exact { h.run r hs with overrun_of_dropped := fun _ => rfl }

/-- A write of any register keeps the invariant. -/
theorem Inv.writeReg {s : State} (h : Inv s) (r : RegName) (v : Word) : Inv (s.writeReg r v) := by
  by_cases hc : r = .cmd
  · subst hc; exact h.issue v
  by_cases hl : r = .len
  · subst hl; exact h.writeLen v
  rw [writeReg_eq_rewriteRegisters s v hc hl]
  exact h.rewriteRegisters _

/-- A write of a target of the address map keeps the invariant: only registers and `WORD` store it (20_memory.md R63). -/
theorem Inv.writeTarget {s : State} (h : Inv s) {o : Nat} (v : Word) : Inv (s.writeTarget (targetAt o) v) := by
  cases ht : targetAt o with
  | reg r => exact h.writeReg r v
  | word n =>
    have hn : n < 65536 := word_lt_of_targetAt ht
    have hb : BuffersOk (s.writeTarget (.word n) v) := by
      simpa [State.writeTarget, Memory.writeWords, Memory.writeWord] using
        h.buffers.writeWords_word (n := n) (ws := [v]) hn
    exact (inv_iff _).2 ⟨hb, fun r hr => { h.run r hr with }, fun ha => { h.results ha with }⟩
  | iqi | iqq | specLo | specHi | cls | unmapped => exact h

/-- A reset gives a state that meets the invariant, whatever was there before (70_reset_and_hazards.md R210). -/
theorem inv_hardReset (s : State) : Inv s.hardReset where
  len_le := Nat.zero_le _
  nsamp_le := Nat.zero_le _
  width_le := Nat.zero_le _
  width_pos hn := absurd hn (Nat.lt_irrefl 0)
  mem_wf := rfl
  iqi_range _ hn := absurd hn (Nat.not_lt_zero _)
  iqq_range _ hn := absurd hn (Nat.not_lt_zero _)
  run _ hr := nomatch hr
  results ha := nomatch ha

/-- Settles O57: each way a step can answer keeps the invariant. -/
theorem everyStepKeepsInvariant : Obligations.EveryStepKeepsInvariant := by
  intro s t h hstep
  have hrest (rest : List Input) : Inv { s with inputs := rest } := h.bookkeeping s.draws s.rdata rest
  rcases step_next_cases hstep with ⟨-, hturn⟩ | ⟨rest, -, hturn⟩ | ⟨rest, -, rfl⟩ | ⟨rest, addr, -, -, -, rfl⟩ |
    ⟨rest, addr, -, v, -, -, -, rfl⟩
  · exact sequencerTurn_leavesInv h t hturn
  · exact sequencerTurn_leavesInv (hrest rest) t hturn
  · exact inv_hardReset _
  · obtain ⟨v, d, e⟩ := hostRead_frame (targetAt (apertureOffset addr)) { s with inputs := rest }
    rw [e]
    exact h.bookkeeping d v rest
  · exact (hrest rest).writeTarget v

end Sys2Proof.Safety
end

section
/-!
PROOFS of the memory family (20_memory.md): malformed accesses (O48), the bits above the aperture (O49), the frame of a read
in any state (O41), and what reads and writes do while idle at every offset of the address map (O40, O42).
-/
namespace Sys2Proof.Machine

open Statements

/-! ## Well-formed accesses (20_memory.md R61) -/

theorem wf_read_iff (addr : Word) (size : AccessSize) :
    (Access.read addr size).wf = true ↔ size = .bits32 ∧ addr.toNat % 4 = 0 := by
  simp [Access.wf, alignedAddr]

theorem wf_write_iff (addr : Word) (size : AccessSize) (v : Word) :
    (Access.write addr size v).wf = true ↔ size = .bits32 ∧ addr.toNat % 4 = 0 :=
  wf_read_iff addr size

/-- Settles O48: neither malformed access is well formed, and no access of a second master is looked at. -/
theorem malformedAccessesAreRefused : Obligations.MalformedAccessesAreRefused := by
  intro s addr v size rest
  refine ⟨fun hbad => ?_, fun hin => by rw [step_input hin]; rfl⟩
  have hmalformed : ¬ (size = .bits32 ∧ addr.toNat % 4 = 0) := by
    rintro ⟨hsize, haligned⟩
    exact hbad.elim (· hsize) (· haligned)
  constructor <;> intro hin <;> rw [step_input hin, handleInput]
  · rw [hostAccess_read, if_neg (mt (wf_read_iff addr size).1 hmalformed)]
  · rw [hostAccess_write, if_neg (mt (wf_write_iff addr size v).1 hmalformed)]

/-! ## The bits above the aperture (20_memory.md R60) -/

/-- Whatever stands in the upper 11 bits, the low 21 are the aperture offset. -/
@[simp] theorem apertureOffset_append (base : BitVec 11) (o : BitVec 21) : apertureOffset (base ++ o) = o.toNat := by
  have ho := o.isLt
  rw [apertureOffset, BitVec.toNat_append, ← Nat.shiftLeft_add_eq_or_of_lt ho, Nat.shiftLeft_eq]
  omega

/-- An address is aligned exactly when its aperture offset is. -/
theorem alignedAddr_eq (addr : Word) : alignedAddr addr = (apertureOffset addr % 4 == 0) := by
  rw [alignedAddr, apertureOffset, Nat.mod_mod_of_dvd _ (by decide)]

/-- Settles O49: an access looks at its address only through the aperture offset. -/
theorem apertureIgnoresUpperBits : Obligations.ApertureIgnoresUpperBits := by
  intro s base o v
  constructor
  · simp only [hostAccess_read, Access.wf, alignedAddr_eq, apertureOffset_append]
  · simp only [hostAccess_write, Access.wf, alignedAddr_eq, apertureOffset_append]

/-! ## Steps that take a well-formed access, in any state -/

/-- A step that takes an aligned 32-bit read reads the target at the address's offset. -/
theorem step_read {s : State} {addr : Word} {rest : List Input} (hin : s.inputs = .access (.read addr .bits32) :: rest)
    (ha : addr.toNat % 4 = 0) : step s = .next (hostRead (targetAt (apertureOffset addr)) (s.withInputs rest)) := by
  rw [step_input hin, handleInput, hostAccess_read, if_pos ((wf_read_iff addr _).2 ⟨rfl, ha⟩)]
  rfl

/-- A step that takes an aligned 32-bit write writes the target at the address's offset. -/
theorem step_write {s : State} {addr v : Word} {rest : List Input}
    (hin : s.inputs = .access (.write addr .bits32 v) :: rest) (ha : addr.toNat % 4 = 0) :
    step s = hostWrite (targetAt (apertureOffset addr)) v (s.withInputs rest) := by
  rw [step_input hin, handleInput, hostAccess_write, if_pos ((wf_write_iff addr _ v).2 ⟨rfl, ha⟩)]
  rfl

/-- Settles O41: the frame of a read of any target. -/
theorem readsChangeNoState : Obligations.ReadsChangeNoState := by
  intro s addr rest hin ha
  obtain ⟨v, d, e⟩ := hostRead_frame (targetAt (apertureOffset addr)) (s.withInputs rest)
  exact ⟨v, d, by rw [step_read hin ha, e]; rfl⟩

/-! ## The pending inputs are no part of what an access sees -/

theorem State.readTarget_withInputs (s : State) (rest : List Input) (t : Target) :
    (s.withInputs rest).readTarget t = s.readTarget t := rfl

theorem State.issue_withInputs (s : State) (rest : List Input) (c : Word) :
    (s.withInputs rest).issue c = (s.issue c).withInputs rest := by
  cases hs : s.seq with
  | idle => rw [State.issue_idle hs, State.issue_idle (s := s.withInputs rest) hs]; rfl
  | run r => rw [State.issue_run hs, State.issue_run (s := s.withInputs rest) hs]; rfl

theorem State.writeLen_withInputs (s : State) (rest : List Input) (v : Word) :
    (s.withInputs rest).writeLen v = (s.writeLen v).withInputs rest := by
  unfold State.writeLen
  split <;> rfl

theorem State.writeReg_withInputs (s : State) (rest : List Input) (r : RegName) (v : Word) :
    (s.withInputs rest).writeReg r v = (s.writeReg r v).withInputs rest := by
  cases r with
  | cmd => exact s.issue_withInputs rest v
  | len => exact s.writeLen_withInputs rest v
  | _ => rfl

theorem State.writeTarget_withInputs (s : State) (rest : List Input) (t : Target) (v : Word) :
    (s.withInputs rest).writeTarget t v = (s.writeTarget t v).withInputs rest := by
  cases t with
  | reg r => exact s.writeReg_withInputs rest r v
  | _ => rfl

/-- While idle, a step that takes a read at an offset that stands for `t` returns `t`'s value. -/
theorem step_read_idle {s : State} {addr : Word} {rest : List Input} {t : Target} (h : s.seq = .idle)
    (hin : s.inputs = .access (.read addr .bits32) :: rest) (ha : addr.toNat % 4 = 0)
    (ht : targetAt (apertureOffset addr) = t) : step s = .next { s with rdata := s.readTarget t, inputs := rest } := by
  rw [step_read hin ha, ht, hostRead_idle (s := s.withInputs rest) h, State.readTarget_withInputs]
  rfl

/-- While idle, a step that takes a write at an offset that stands for `t` writes `t`. -/
theorem step_write_idle {s : State} {addr v : Word} {rest : List Input} {t : Target} (h : s.seq = .idle)
    (hin : s.inputs = .access (.write addr .bits32 v) :: rest) (ha : addr.toNat % 4 = 0)
    (ht : targetAt (apertureOffset addr) = t) : step s = .next ((s.writeTarget t v).withInputs rest) := by
  rw [step_write hin ha, ht, hostWrite_idle (s := s.withInputs rest) h, State.writeTarget_withInputs]

/-! ## The address map by offsets (20_memory.md R64, R65) -/

/-- Nothing is mapped between the registers and `WORD`, nor above `CLASS`. -/
theorem targetAt_reserved {o : Nat} (h : (0x84 ≤ o ∧ o < 0x40000) ∨ 0x1C0000 ≤ o) : targetAt o = .unmapped := by
  have hb := window_bases
  rcases targetAt_cases o with ⟨r, rfl, -⟩ | ⟨n, hn, hlo, hhi, -⟩ | ⟨n, hn, hlo, hhi, -⟩ | ⟨n, hn, hlo, hhi, -⟩ |
    ⟨k, hk, hlo, hhi, -⟩ | ⟨k, hk, hlo, hhi, -⟩ | ⟨k, hk, hlo, hhi, -⟩ | ⟨-, e⟩
  case inr.inr.inr.inr.inr.inr.inr => exact e
  case inl =>
    have hr := regOffset_lt r
    omega
  all_goals
    simp only [wordAddr, iqiAddr, iqqAddr, specAddr, classAddr] at hlo hhi
    omega

/-- The statement's table of register values is the model's reading of the offsets `0x00` to `0x80`, the two reserved ones
among them. -/
theorem registerValues_eq (s : State) :
    registerValues s = (List.range 33).map fun k => (4 * k, s.readTarget (targetAt (4 * k))) := rfl

theorem readTarget_of_mem_registerValues {s : State} {e : Nat × Word} (he : e ∈ registerValues s) :
    s.readTarget (targetAt e.1) = e.2 := by
  rw [registerValues_eq] at he
  obtain ⟨k, -, rfl⟩ := List.mem_map.1 he
  rfl

/-- Settles O40: each offset by the target the address map gives it. -/
theorem readsFollowAddressMap : Obligations.ReadsFollowAddressMap := by
  intro s addr rest h hin ha o ho
  have hread {t : Target} (ht : targetAt o = t) : step s = .next { s with rdata := s.readTarget t, inputs := rest } :=
    step_read_idle h hin ha ((congrArg targetAt ho).symm.trans ht)
  refine ⟨?registers, ?word, ?iqi, ?iqq, ?spec, ?cls, fun hres => hread (targetAt_reserved hres)⟩
  case registers =>
    rintro e he rfl
    rw [hread rfl, readTarget_of_mem_registerValues he]
  case word => rintro n hn rfl; exact hread (targetAt_wordAddr hn)
  case iqi => rintro n hn rfl; exact hread (targetAt_iqiAddr hn)
  case iqq => rintro n hn rfl; exact hread (targetAt_iqqAddr hn)
  case spec =>
    rintro k hk (rfl | rfl)
    · exact hread (targetAt_specAddr hk)
    · have hhi : 0x100004 + 8 * k = specAddr k + 4 := Nat.add_right_comm 0x100000 4 (8 * k)
      rw [hhi] at hread ⊢
      exact hread (targetAt_specAddr_hi hk)
  case cls => rintro k hk rfl; exact hread (targetAt_classAddr hk)

/-! ## Writes (20_memory.md R63) -/

/-- The read-write registers of the map but for `CMD` (20_memory.md R64). -/
def storingRegs : List RegName :=
  [.base, .endAddr, .len, .layout, .lineAddr, .lineW0, .lineW1, .lineW2, .lineW3, .fsLo, .fsHi, .cfLo, .cfHi, .bwLo, .bwHi,
    .thLo, .thHi]

/-- The statement's table of register writes is the model's writing of those registers at their offsets. -/
theorem registerWrites_eq (s : State) (v : Word) :
    registerWrites s v = storingRegs.map fun r => (regOffset r, s.writeReg r v) := rfl

theorem writeTarget_of_mem_registerWrites {s : State} {v : Word} {e : Nat × State} (he : e ∈ registerWrites s v) :
    s.writeTarget (targetAt e.1) v = e.2 := by
  rw [registerWrites_eq] at he
  obtain ⟨r, -, rfl⟩ := List.mem_map.1 he
  rw [targetAt_regOffset, State.writeTarget]

/-- A store of a word keeps every byte outside its element. -/
theorem keepsOutside_writeWord (m : Memory) (n : Nat) (v : Word) :
    KeepsOutside m (m.writeWord (wordAddr n) v) (wordAddr n) (wordAddr (n + 1)) :=
  fun _ hx => m.readByte_writeBytes_outside hx

/-- A register at an offset that ignores writes is read-only. -/
theorem writeReg_eq_self {r : RegName} (h : IgnoresWrites (regOffset r)) (s : State) (v : Word) : s.writeReg r v = s := by
  cases r with
  | id | status | nsamp | sampleWidth | sigLo | sigHi | dcLo | dcHi | toneLo | toneHi | nband | ntone | nspec => rfl
  | _ => exact absurd h (by unfold IgnoresWrites; decide)

/-- At an offset that ignores writes stands a read-only register, an element of a buffer other than `WORD`, or nothing. -/
theorem writeTarget_eq_self {o : Nat} (h : IgnoresWrites o) (s : State) (v : Word) :
    s.writeTarget (targetAt o) v = s := by
  rcases targetAt_cases o with ⟨r, rfl, e⟩ | ⟨n, hn, hlo, hhi, -⟩ | ⟨n, -, -, -, e⟩ | ⟨n, -, -, -, e⟩ | ⟨k, -, -, -, e⟩ |
    ⟨k, -, -, -, e⟩ | ⟨k, -, -, -, e⟩ | ⟨-, e⟩
  case inl => rw [e]; exact writeReg_eq_self h s v
  case inr.inl =>
    have hb := window_bases
    simp only [wordAddr] at hlo hhi
    unfold IgnoresWrites at h
    omega
  all_goals rw [e]; rfl

/-- Settles O42: the read-write registers by their table, `WORD` by the laws of a store, the rest by the map. -/
theorem writesFollowAddressMap : Obligations.WritesFollowAddressMap := by
  intro s addr v rest h hin ha o ho
  have hwrite {t : Target} (ht : targetAt o = t) : step s = .next ((s.writeTarget t v).withInputs rest) :=
    step_write_idle h hin ha ((congrArg targetAt ho).symm.trans ht)
  refine ⟨?registers, ?word, ?ignored⟩
  case registers =>
    rintro e he rfl
    rw [hwrite rfl, writeTarget_of_mem_registerWrites he]
    rfl
  case word =>
    rintro n hn rfl
    exact ⟨s.mem.writeWord (wordAddr n) v, hwrite (targetAt_wordAddr hn), s.mem.readWord_writeWord_same _ v,
      keepsOutside_writeWord s.mem n v⟩
  case ignored =>
    intro hign
    rw [hwrite rfl, writeTarget_eq_self hign]
    rfl

end Sys2Proof.Machine
end

section
/-!
PROOFS of the encoding family (30_encoding.md): decode and encode are inverse (O2), the fixed words (O1), what every accepted
word runs (O3), the word `withFetchWord` places (O5), and the pseudo-instruction `push` (O15).
-/
namespace Sys2Proof

/-! ## The two fields of a command word (30_encoding.md R80) -/

/-- The fields `RSV` and `OP` are the whole word. -/
theorem rsvField_append_opField (c : Word) : rsvField c ++ opField c = c :=
  (BitVec.extractLsb'_append_extractLsb'_eq_extractLsb' rfl).trans BitVec.extractLsb'_eq_self

/-- A word is a command's encoding exactly when its reserved bits are 0 and its opcode is the command's. -/
theorem eq_encode_iff {c : Word} {i : Instr} : c = encode i ↔ rsvField c = 0#24 ∧ opField c = opcode i := by
  constructor
  · rintro rfl
    cases i <;> exact ⟨rfl, rfl⟩
  · rintro ⟨hrsv, hop⟩
    rw [encode, ← hrsv, ← hop, rsvField_append_opField]

/-! ## The opcode map (30_encoding.md R82, R83) -/

/-- The opcode map lists each command under its opcode and nowhere else. -/
theorem instrOfOpcode_eq_some_iff {op : Byte} {i : Instr} : instrOfOpcode op = some i ↔ op = opcode i := by
  constructor
  · intro h
    unfold instrOfOpcode at h
    split at h <;> cases h
    all_goals next hop => exact BitVec.eq_of_toNat_eq hop
  · rintro rfl
    cases i <;> rfl

/-- Every opcode is below 6. -/
theorem opcode_toNat_lt (i : Instr) : (opcode i).toNat < 6 := by
  cases i <;> decide

/-- From 6 on the opcode map is empty. -/
theorem instrOfOpcode_eq_none {op : Byte} (h : 6 ≤ op.toNat) : instrOfOpcode op = none := by
  refine Option.eq_none_iff_forall_ne_some.2 fun i hi => ?_
  have hlt := opcode_toNat_lt i
  rw [← instrOfOpcode_eq_some_iff.1 hi] at hlt
  omega

/-! ## What `decode` answers (30_encoding.md R81) -/

/-- A word with a reserved bit set is refused for that, whatever its opcode. -/
theorem decode_of_rsvField_ne_zero {c : Word} (h : rsvField c ≠ 0#24) : decode c = .error .reservedBits := by
  rw [decode, if_neg h]

/-- With the reserved bits 0, an opcode from 6 on is refused by its value. -/
theorem decode_of_six_le_opField {c : Word} (hrsv : rsvField c = 0#24) (hop : 6 ≤ (opField c).toNat) :
    decode c = .error (.reservedOpcode (opField c)) := by
  rw [decode, if_pos hrsv, instrOfOpcode_eq_none hop]

/-- A word decodes to a command exactly when its reserved bits are 0 and its opcode is the command's. -/
theorem decode_eq_ok_iff {c : Word} {i : Instr} : decode c = .ok i ↔ rsvField c = 0#24 ∧ opField c = opcode i := by
  by_cases hrsv : rsvField c = 0#24
  · rw [decode, if_pos hrsv, ← instrOfOpcode_eq_some_iff]
    cases instrOfOpcode (opField c) <;> simp [hrsv]
  · simp [decode_of_rsvField_ne_zero hrsv, hrsv]

/-- Settles O2: the words that decode to a command and its encoding have the same two fields. -/
theorem onlyItsEncodingDecodes : Obligations.OnlyItsEncodingDecodes :=
  fun _ _ => decode_eq_ok_iff.trans eq_encode_iff.symm

@[simp] theorem decode_encode (i : Instr) : decode (encode i) = .ok i := (onlyItsEncodingDecodes _ i).2 rfl

/-- Settles O1: the six words of the opcode map, and a word for each way to be reserved. -/
theorem opcodeMapWordsDecode : Obligations.OpcodeMapWordsDecode :=
  ⟨decode_word_nop, decode_word_clear, decode_word_framePush, decode_word_reorder, decode_word_unpack, decode_word_analyze,
    decode_of_six_le_opField (by decide) (by decide), decode_of_rsvField_ne_zero (by decide),
    decode_of_rsvField_ne_zero (by decide)⟩

end Sys2Proof

namespace Sys2Proof.Machine

open Statements

/-! ## What the sequencer runs (30_encoding.md R81) -/

/-- Settles O3: by the reserved bits, then by the opcode. -/
theorem commandWordsRunByOpcode : Obligations.CommandWordsRunByOpcode := by
  intro c s
  refine ⟨fun hrsv => runCommand_error (decode_of_rsvField_ne_zero hrsv) s, fun hrsv => ?_⟩
  have hrun (i : Instr) (hop : opField c = opcode i) : runCommand c s = exec i s :=
    runCommand_ok (decode_eq_ok_iff.2 ⟨hrsv, hop⟩) s
  exact ⟨hrun .nop, hrun .clear, hrun .framePush, hrun .reorder, hrun .unpack, hrun .analyze,
    fun hop => runCommand_error (decode_of_six_le_opField hrsv hop) s⟩

/-- A word taken as a 32-bit table word is itself (30_encoding.md R84). -/
@[simp] theorem tableWord_toNat (c : Word) : tableWord 32 c.toNat = c := by
  rw [tableWord, Nat.mod_eq_of_lt c.isLt, BitVec.ofNat_toNat, BitVec.setWidth_eq]

/-- The turn `fetching` places runs the word in the state that has just accepted it. -/
theorem step_fetching (s : State) (c : Word) : step (s.fetching c) = runCommand c (s.startRun c) := by
  rw [step_turn_run (s.fetching_seq c) (s.fetching_inputs c)]
  rfl

/-- Settles O5: the placed word is the encoding itself, and decodes to its command. -/
theorem fetchWordRunsItsCommand : Obligations.FetchWordRunsItsCommand := by
  intro s i
  rw [State.withFetchWord, tableWord_toNat, step_fetching, runCommand_ok (decode_encode i)]

/-! ## A whole command as host accesses (30_encoding.md R90) -/

theorem State.finishAnalysis_withInputs (s : State) (rest : List Input) (inp : AnalyzeInput) (o : AnalyzeOutcome) :
    (s.withInputs rest).finishAnalysis inp o = (s.finishAnalysis inp o).withInputs rest := by
  unfold State.finishAnalysis
  cases o.logDomain <;> rfl

/-- No command looks at the events still to come, nor takes any. -/
theorem exec_withInputs (i : Instr) (s : State) (rest : List Input) :
    exec i (s.withInputs rest) = mapNext (fun t => t.withInputs rest) (exec i s) := by
  have hop : (s.withInputs rest).operands = s.operands := rfl
  cases i with
  | nop => rfl
  | clear => rfl
  | framePush =>
    simp only [exec, execFramePush, hop]
    split_ifs <;> rfl
  | reorder =>
    simp only [exec, execReorder, hop]
    split_ifs <;> rfl
  | unpack =>
    simp only [exec, execUnpack, hop]
    split_ifs <;> rfl
  | analyze =>
    have hmem : (s.withInputs rest).mem = s.mem := rfl
    simp only [exec, execAnalyze, hop, hmem, State.finishAnalysis_withInputs]
    split_ifs
    · rfl
    · cases s.operands.params with
      | none => rfl
      | some p => dsimp only; split_ifs <;> rfl

theorem exec_withInputs_of_next {i : Instr} {s u : State} (h : exec i s = .next u) (rest : List Input) :
    exec i (s.withInputs rest) = .next (u.withInputs rest) := by
  rw [exec_withInputs, h, mapNext]

/-- `run OP` without polls, taken while idle: three steps issue the command, run it just accepted and read the `STATUS` it
leaves. -/
theorem steps_runOp {s u : State} {i : Instr} {rest : List Input} (k : Nat) (h : s.seq = .idle)
    (hexec : exec i (s.startRun (encode i)) = .next u) (hu : u.seq = .idle) :
    steps (k + 3) (s.withInputs (runOp i 0 ++ rest)) = steps k { u with rdata := u.status, inputs := rest } := by
  have hissue : step (s.withInputs (runOp i 0 ++ rest)) =
      .next ((s.startRun (encode i)).withInputs (.turn :: rd .status :: rest)) := by
    rw [step_wr_cmd (s := s.withInputs (runOp i 0 ++ rest)) rfl, State.issue_idle (by exact h)]
    rfl
  have hturn : step ((s.startRun (encode i)).withInputs (.turn :: rd .status :: rest)) =
      .next (u.withInputs (rd .status :: rest)) := by
    rw [step_turn_run rfl rfl, runCommand_ok (decode_encode i)]
    exact exec_withInputs_of_next hexec _
  have hread : step (u.withInputs (rd .status :: rest)) = .next { u with rdata := u.status, inputs := rest } :=
    step_rd_idle (s := u.withInputs (rd .status :: rest)) hu rfl
  rw [steps_succ hissue, steps_succ hturn, steps_succ hread]

/-- `FRAME_PUSH` always completes. -/
theorem exec_framePush_completes (s : State) : ∃ u, exec .framePush s = .next u ∧ u.seq = .idle := by
  rcases execFramePush_cases s with ⟨-, e⟩ | ⟨-, -, e⟩ | ⟨-, -, -, e⟩ | ⟨-, -, -, e⟩ <;> exact ⟨_, e, rfl⟩

/-- Settles O15: five steps stage the line, three run the command. -/
theorem pushSequenceRunsFramePush : Obligations.PushSequenceRunsFramePush := by
  intro s l h hin
  obtain ⟨u, hexec, hu⟩ := exec_framePush_completes ((s.stageLine l).startRun (encode .framePush))
  refine ⟨u, hexec, ?_⟩
  calc steps 8 s
      = steps 3 ((s.stageLine l).withInputs (runOp .framePush 0 ++ [])) := steps_stageInputs l 3 h hin
    _ = .next { u with rdata := u.status, inputs := [] } := steps_runOp 0 h hexec hu

end Sys2Proof.Machine
end

section
/-!
PROOFS of the frame family (40_frame.md): `NOP` and `CLEAR` (O8, O9, O10), a push by itself (O11, O12, O13) and a frame of
pushed lines (O14), `REORDER` (O16, O17, O18, O19), and the sticky bits along every step (O58).
-/
namespace Sys2Proof.Machine

open Statements

/-! ## Words at element addresses (20_memory.md R64, R66) -/

theorem wordAddr_add (n i : Nat) : wordAddr (n + i) = wordAddr n + 4 * i := by
  unfold wordAddr
  omega

/-- Word `i` of a run of words stored from element `n` on stands at element `n + i`. -/
theorem Memory.readWord_writeWords_element (m : Memory) (n : Nat) {ws : List Word} {i : Nat} (h : i < ws.length) :
    (m.writeWords (wordAddr n) ws).readWord (wordAddr (n + i)) = ws[i] := by
  rw [wordAddr_add, readWord_writeWords_inside m _ h]

/-- An element below a run of words stored reads as before. -/
theorem Memory.readWord_writeWords_below (m : Memory) {n i : Nat} (ws : List Word) (h : i < n) :
    (m.writeWords (wordAddr n) ws).readWord (wordAddr i) = m.readWord (wordAddr i) :=
  m.readWord_writeWords_outside (.inl (by unfold wordAddr; omega))

/-- A run of words stored from element `n` on keeps every byte outside its elements. -/
theorem keepsOutside_writeWords (m : Memory) (n : Nat) (ws : List Word) :
    KeepsOutside m (m.writeWords (wordAddr n) ws) (wordAddr n) (wordAddr (n + ws.length)) := by
  intro x hx
  rw [wordAddr_add] at hx
  exact m.readByte_writeWords_outside hx

/-- Words stored read back as a list. -/
theorem Memory.readWords_writeWords (m : Memory) (a : Nat) (ws : List Word) :
    (m.writeWords a ws).readWords a ws.length = ws := by
  refine List.ext_getElem (length_readWords _ _ _) fun i hi hi' => ?_
  rw [getElem_readWords, readWord_writeWords_inside m a hi']

/-- The four bytes of a word read are the bytes at its address. -/
theorem Memory.extractLsb'_readWord (m : Memory) (a : Nat) {j : Nat} (hj : j < 4) :
    (m.readWord a).extractLsb' (8 * j) 8 = m.readByte (a + j) := by
  apply BitVec.eq_of_getLsbD_eq
  intro i hi
  simp only [Memory.readWord, BitVec.getLsbD_append, BitVec.getLsbD_extractLsb', hi, decide_true, Bool.true_and]
  interval_cases j <;> grind

/-- Memories with the same first `L` words and the same bytes outside them have the same bytes. -/
theorem readByte_eq_of_readWords_eq {m m' : Memory} {L : Nat}
    (hwords : m'.readWords (wordAddr 0) L = m.readWords (wordAddr 0) L)
    (hout : KeepsOutside m m' (wordAddr 0) (wordAddr L)) (x : Nat) : m'.readByte x = m.readByte x := by
  by_cases hx : x < wordAddr 0 ∨ wordAddr L ≤ x
  · exact hout x hx
  · have hL : wordAddr L = wordAddr 0 + 4 * L := by rw [← wordAddr_add, Nat.zero_add]
    obtain ⟨n, j, hn, hj, rfl⟩ : ∃ n j, n < L ∧ j < 4 ∧ x = wordAddr 0 + 4 * n + j :=
      ⟨(x - wordAddr 0) / 4, (x - wordAddr 0) % 4, by omega, by omega, by omega⟩
    have hword : m'.readWord (wordAddr 0 + 4 * n) = m.readWord (wordAddr 0 + 4 * n) := by
      simpa [hn] using congrArg (fun ws => ws[n]?) hwords
    rw [← m'.extractLsb'_readWord _ hj, hword, m.extractLsb'_readWord _ hj]

/-! ## NOP and CLEAR (40_frame.md R100, R102) -/

theorem State.droppedInRun_idle {s : State} (h : s.seq = .idle) : s.droppedInRun = false := by
  rw [State.droppedInRun, h]

/-- Settles O8: a completion with `OK` is all there is. -/
theorem nopCompletes : Obligations.NopCompletes := fun _ => rfl

/-- Settles O9: the frame state and the completion by definition, the flag by whether a command runs. -/
theorem clearResetsFrameState : Obligations.ClearResetsFrameState := by
  intro s
  rw [exec, execClear, State.clearFrame]
  cases h : s.seq with
  | idle => rw [State.droppedInRun_idle h]; rfl
  | run r => rw [State.droppedInRun_run h]; rfl

/-- The turn of a `CLEAR` clears the frame, with the flag of its own run in `OVERRUN`. -/
theorem step_turn_clear {s : State} {r : Run} {rest : List Input} (h : s.seq = .run r) (hword : r.word = encode .clear)
    (hin : s.inputs = .turn :: rest) : step s = .next ((s.withInputs rest).clearFrame.complete .ok) := by
  rw [step_turn_run h hin, hword, runCommand_ok (decode_encode .clear)]
  rfl

/-- A write of `CMD` taken while idle starts a run (60_exceptions.md R190). -/
theorem step_wr_cmd_idle {s : State} {c : Word} {rest : List Input} (h : s.seq = .idle)
    (hin : s.inputs = wr .cmd c :: rest) : step s = .next ((s.startRun c).withInputs rest) := by
  rw [step_wr_cmd hin, State.issue_idle (by exact h)]
  rfl

/-- A write of `CMD` taken during a run is dropped (60_exceptions.md R190). -/
theorem step_wr_cmd_run {s : State} {r : Run} {c : Word} {rest : List Input} (h : s.seq = .run r)
    (hin : s.inputs = wr .cmd c :: rest) : step s = .next ((s.dropCommand r).withInputs rest) := by
  rw [step_wr_cmd hin, State.issue_run (r := r) (by exact h)]
  rfl

/-- Settles O10: the flag is the run's, set by the dropped write in the one sequence and as issued in the other. -/
theorem clearKeepsOverrunOfItsOwnRun : Obligations.ClearKeepsOverrunOfItsOwnRun := by
  intro s c h
  constructor <;> intro hin
  · rw [steps_succ (step_wr_cmd_idle h hin), steps_succ (step_wr_cmd_run rfl rfl), steps_succ (step_turn_clear rfl rfl rfl)]
    exact ⟨_, rfl, rfl, rfl, rfl, rfl⟩
  · rw [steps_succ (step_wr_cmd_idle h hin), steps_succ (step_turn_clear rfl rfl rfl)]
    exact ⟨_, rfl, rfl, rfl, rfl, rfl⟩

/-! ## One push (40_frame.md R106 to R109) -/

/-- Settles O11: a difference of words is the difference of their numbers modulo 2^32. -/
theorem lineOffsetIsModular : Obligations.LineOffsetIsModular := by
  intro S
  have ha := S.lineAddr.isLt
  have hb := S.base.isLt
  rw [Snapshot.lineOffset, BitVec.toNat_sub]
  omega

/-- A line's words stand at element `n` and the three after it. -/
def HoldsLine (m : Memory) (n : Nat) (l : Line) : Prop :=
  m.readWord (wordAddr n) = l.w0 ∧ m.readWord (wordAddr (n + 1)) = l.w1 ∧ m.readWord (wordAddr (n + 2)) = l.w2 ∧
    m.readWord (wordAddr (n + 3)) = l.w3

/-- The line staged in a snapshot (10_state.md R30). -/
def Snapshot.line (S : Snapshot) : Line := ⟨S.lineAddr, S.lineW0, S.lineW1, S.lineW2, S.lineW3⟩

/-- An appended line stands at the old end of the frame. -/
theorem holdsLine_appendLine (s : State) (S : Snapshot) : HoldsLine (s.appendLine S).mem S.len.toNat S.line :=
  have word {i : Nat} (hi : i < 4) := s.mem.readWord_writeWords_element S.len.toNat (ws := S.lineWords) hi
  ⟨word (i := 0) (by decide), word (i := 1) (by decide), word (i := 2) (by decide), word (i := 3) (by decide)⟩

/-- An appended line keeps the lines below it. -/
theorem HoldsLine.appendLine {s : State} {n : Nat} {l : Line} (h : HoldsLine s.mem n l) {S : Snapshot}
    (hn : n + 4 ≤ S.len.toNat) : HoldsLine (s.appendLine S).mem n l := by
  obtain ⟨h0, h1, h2, h3⟩ := h
  have below {i : Nat} (hi : i < S.len.toNat) := s.mem.readWord_writeWords_below S.lineWords hi
  exact ⟨(below (by omega)).trans h0, (below (by omega)).trans h1, (below (by omega)).trans h2,
    (below (by omega)).trans h3⟩

/-- Settles O12: of the four answers of a push, the one that appends. -/
theorem framePushAppendsItsLine : Obligations.FramePushAppendsItsLine := by
  intro s hgood hoff hcap
  rcases execFramePush_cases s with ⟨hbad, -⟩ | ⟨-, hoff', -⟩ | ⟨-, -, hcap', -⟩ | ⟨-, -, -, e⟩
  · simp [hgood] at hbad
  · exact absurd hoff hoff'
  · omega
  · obtain ⟨h0, h1, h2, h3⟩ := holdsLine_appendLine s s.operands
    exact ⟨_, e, h0, h1, h2, h3, keepsOutside_writeWords _ _ s.operands.lineWords⟩

/-- Settles O13: the three failing answers of a push exclude each other. -/
theorem framePushFailuresWriteNoFrame : Obligations.FramePushFailuresWriteNoFrame := by
  intro s
  rcases execFramePush_cases s with ⟨hbad, e⟩ | ⟨hgood, hoff, e⟩ | ⟨hgood, hoff, hcap, e⟩ | ⟨hgood, hoff, hcap, -⟩
  · exact ⟨fun _ => e, by simp [hbad], by simp [hbad]⟩
  · exact ⟨by simp [hgood], fun _ _ => e, fun _ h => absurd h hoff⟩
  · exact ⟨by simp [hgood], fun _ h => absurd hoff h, fun _ _ _ => e⟩
  · exact ⟨by simp [hgood], fun _ h => absurd hoff h, fun _ _ h => absurd hcap (not_le.2 h)⟩

/-! ## A frame of pushed lines (40_frame.md R105) -/

/-- A fact about every element of a list and its index, when the list grows at its end. -/
theorem forall_getElem_concat {α : Type} (P : Nat → α → Prop) (xs : List α) (x : α) :
    (∀ m (h : m < (xs ++ [x]).length), P m (xs ++ [x])[m]) ↔ (∀ m (h : m < xs.length), P m xs[m]) ∧ P xs.length x := by
  constructor
  · refine fun h => ⟨fun m hm => ?_, ?_⟩
    · have hx := h m (by rw [List.length_append]; omega)
      rwa [List.getElem_append_left hm] at hx
    · simpa using h xs.length (by simp)
  · rintro ⟨hxs, hx⟩ m hm
    by_cases hlt : m < xs.length
    · rw [List.getElem_append_left hlt]
      exact hxs m hlt
    · obtain rfl : m = xs.length := by rw [List.length_append, List.length_singleton] at hm; omega
      simpa using hx

/-- The `m`-th line has byte offset `16·m` from `base` (40_frame.md R105). -/
def Contiguous (base : Word) (lines : List Line) : Prop :=
  ∀ m (h : m < lines.length), (lines[m].addr - base).toNat = 16 * m

theorem contiguous_concat {base : Word} {lines : List Line} {l : Line} :
    Contiguous base (lines ++ [l]) ↔ Contiguous base lines ∧ (l.addr - base).toNat = 16 * lines.length :=
  forall_getElem_concat (fun m (l : Line) => (l.addr - base).toNat = 16 * m) lines l

/-- The lines' words stand one line after another from `WORD[0]` on (40_frame.md R109). -/
def HoldsLines (m : Memory) (lines : List Line) : Prop := ∀ i (h : i < lines.length), HoldsLine m (4 * i) lines[i]

theorem holdsLines_concat {m : Memory} {lines : List Line} {l : Line} :
    HoldsLines m (lines ++ [l]) ↔ HoldsLines m lines ∧ HoldsLine m (4 * lines.length) l :=
  forall_getElem_concat (fun i l => HoldsLine m (4 * i) l) lines l

/-- What an idle state satisfies once exactly the given lines have been pushed since a `CLEAR`. -/
structure Pushed (base : Word) (lines : List Line) (s : State) : Prop where
  idle : s.seq = .idle
  base_eq : s.base = base
  good_iff : s.frameBad = false ↔ Contiguous base lines
  err_of_bad : s.frameBad = true → s.err = .noncontig
  len_of_good : s.frameBad = false → s.len.toNat = 4 * lines.length
  words_of_good : s.frameBad = false → HoldsLines s.mem lines

/-- A cleared frame holds no line. -/
theorem pushed_nil_clearFrame (s : State) : Pushed s.base [] (s.clearFrame.complete .ok) where
  idle := rfl
  base_eq := rfl
  good_iff := ⟨fun _ _ h => absurd h (Nat.not_lt_zero _), fun _ => rfl⟩
  err_of_bad := nofun
  len_of_good _ := rfl
  words_of_good _ _ h := absurd h (Nat.not_lt_zero _)

/-- The returned value and the pending inputs are no part of what is pushed. -/
theorem Pushed.bookkeeping {base : Word} {lines : List Line} {s : State} (h : Pushed base lines s) (v : Word)
    (rest : List Input) : Pushed base lines { s with rdata := v, inputs := rest } :=
  { h with }

/-- A completion with `NONCONTIG` of a bad frame is what lines that are not contiguous leave. -/
theorem pushed_complete_noncontig {base : Word} {lines : List Line} {s : State} (hbase : s.base = base)
    (hbad : s.frameBad = true) (hlines : ¬ Contiguous base lines) : Pushed base lines (s.complete .noncontig) where
  idle := rfl
  base_eq := hbase
  good_iff := by simp [hbad, hlines]
  err_of_bad _ := rfl
  len_of_good h := by simp [hbad] at h
  words_of_good h := by simp [hbad] at h

/-- A line appended to a good frame at its next offset is pushed. -/
theorem Pushed.appendLine {base : Word} {lines : List Line} {l : Line} {s : State} (h : Pushed base lines s)
    (hgood : s.frameBad = false) (hoff : (l.addr - base).toNat = 16 * lines.length)
    (hcap : 4 * (lines.length + 1) ≤ 65536) (c : Word) :
    Pushed base (lines ++ [l]) ((((s.stageLine l).startRun c).appendLine (s.stageLine l).snapshot).complete .ok) := by
  have hlen := h.len_of_good hgood
  constructor
  case idle => rfl
  case base_eq => exact h.base_eq
  case good_iff => exact iff_of_true hgood (contiguous_concat.2 ⟨h.good_iff.1 hgood, hoff⟩)
  case err_of_bad => intro hbad; simp [hgood] at hbad
  case len_of_good =>
    intro _
    show (s.len + 4#17).toNat = _
    rw [BitVec.toNat_add, hlen, show (4#17).toNat = 4 from rfl, List.length_append, List.length_singleton]
    exact Nat.mod_eq_of_lt (by omega)
  case words_of_good =>
    intro _
    refine holdsLines_concat.2 ⟨fun i hi => ?_, ?_⟩
    · exact (h.words_of_good hgood i hi).appendLine (s := (s.stageLine l).startRun c) (S := (s.stageLine l).snapshot)
        (by show 4 * i + 4 ≤ s.len.toNat; omega)
    · rw [← hlen]
      exact holdsLine_appendLine ((s.stageLine l).startRun c) (s.stageLine l).snapshot

/-- One more push: the line is appended if the frame is good and the line is its next, and otherwise the frame is bad. -/
theorem Pushed.push {base : Word} {lines : List Line} {s : State} (h : Pushed base lines s) (l : Line)
    (hcap : 4 * (lines.length + 1) ≤ 65536) :
    ∃ u, exec .framePush ((s.stageLine l).startRun (encode .framePush)) = .next u ∧ Pushed base (lines ++ [l]) u := by
  have hop : ((s.stageLine l).startRun (encode .framePush)).operands = (s.stageLine l).snapshot := rfl
  have hoff : (s.stageLine l).snapshot.lineOffset = l.addr - base := by rw [← h.base_eq]; rfl
  have hflag : (s.stageLine l).snapshot.frameBad = s.frameBad := rfl
  have hlen : (s.stageLine l).snapshot.len = s.len := rfl
  have hcases := execFramePush_cases ((s.stageLine l).startRun (encode .framePush))
  rw [hop, hoff, hflag, hlen] at hcases
  rcases hcases with ⟨hbad, e⟩ | ⟨hgood, hne, e⟩ | ⟨hgood, -, hover, -⟩ | ⟨hgood, heq, -, e⟩
  · refine ⟨_, e, pushed_complete_noncontig h.base_eq hbad fun hc => ?_⟩
    simp [h.good_iff.2 (contiguous_concat.1 hc).1] at hbad
  · refine ⟨_, e, pushed_complete_noncontig h.base_eq rfl fun hc => hne ?_⟩
    rw [(contiguous_concat.1 hc).2, h.len_of_good hgood]
    omega
  · have := h.len_of_good hgood
    omega
  · refine ⟨_, e, h.appendLine hgood ?_ hcap _⟩
    rw [heq, h.len_of_good hgood]
    omega

/-- `push` without polls, taken while idle: eight steps stage the line, run the command and read its `STATUS`. -/
theorem steps_pushInputs {s u : State} {l : Line} {rest : List Input} (k : Nat) (h : s.seq = .idle)
    (hin : s.inputs = pushInputs l 0 ++ rest)
    (hexec : exec .framePush ((s.stageLine l).startRun (encode .framePush)) = .next u) (hu : u.seq = .idle) :
    steps (k + 8) s = steps k { u with rdata := u.status, inputs := rest } :=
  calc steps (k + 8) s
      = steps (k + 3) ((s.stageLine l).withInputs (runOp .framePush 0 ++ rest)) :=
        steps_stageInputs l (k + 3) h (by rw [hin, pushInputs, List.append_assoc])
    _ = steps k { u with rdata := u.status, inputs := rest } := steps_runOp k h hexec hu

/-- Any number of pushes, one after another. -/
theorem steps_pushes {base : Word} (lines : List Line) {pushed : List Line} {s : State} (h : Pushed base pushed s)
    (hcap : 4 * (pushed.length + lines.length) ≤ 65536) (hin : s.inputs = lines.flatMap fun l => pushInputs l 0) :
    ∃ t, steps (8 * lines.length) s = .next t ∧ t.inputs = [] ∧ Pushed base (pushed ++ lines) t := by
  induction lines generalizing pushed s with
  | nil => exact ⟨s, rfl, hin, by rwa [List.append_nil]⟩
  | cons l lines ih =>
    rw [List.length_cons] at hcap
    obtain ⟨u, hexec, hu⟩ := h.push l (by omega)
    obtain ⟨t, ht, hempty, hall⟩ := ih (hu.bookkeeping u.status (lines.flatMap fun l => pushInputs l 0))
      (by rw [List.length_append, List.length_singleton]; omega) rfl
    refine ⟨t, ?_, hempty, by rwa [List.append_assoc] at hall⟩
    rw [List.length_cons, Nat.mul_succ, steps_pushInputs _ h.idle hin hexec hu.idle]
    exact ht

/-- Settles O14: three steps clear the frame, and each push keeps what `Pushed` says. -/
theorem frameAcceptedIffContiguous : Obligations.FrameAcceptedIffContiguous := by
  intro lines s h hcap hin
  have hclear := pushed_nil_clearFrame (s.startRun (encode .clear))
  have hfirst := steps_runOp (i := .clear) (rest := lines.flatMap fun l => pushInputs l 0) (8 * lines.length) h rfl
    hclear.idle
  rw [← hin, Nat.add_comm] at hfirst
  obtain ⟨t, ht, hempty, hall⟩ := steps_pushes lines (hclear.bookkeeping _ _) (by simpa using hcap) rfl
  exact ⟨t, hfirst.trans ht, hempty, hall.idle, hall.good_iff, hall.err_of_bad,
    fun hgood => ⟨hall.len_of_good hgood, hall.words_of_good hgood⟩⟩

/-! ## REORDER (40_frame.md R112 to R117) -/

/-- The rotation is the library's, by one more than the end address. -/
theorem rotateFrame_eq_rotate {xseq : List Word} {k : Nat} (h : k < xseq.length) :
    rotateFrame xseq k = xseq.rotate (k + 1) :=
  (List.rotate_eq_drop_append_take h).symm

/-- The words of a rotated frame are the old ones rotated. -/
theorem readWords_rotateWords (s : State) {L k : Nat} (h : k < L) :
    (s.rotateWords L k).mem.readWords (wordAddr 0) L = (s.mem.readWords (wordAddr 0) L).rotate (k + 1) := by
  have hback := s.mem.readWords_writeWords (wordAddr 0) ((s.mem.readWords (wordAddr 0) L).rotate (k + 1))
  rw [List.length_rotate, Memory.length_readWords] at hback
  rw [State.rotateWords_mem, rotateFrame_eq_rotate (by rwa [Memory.length_readWords]), hback]

/-- A rotation writes nothing but the words of the frame. -/
theorem keepsOutside_rotateWords (s : State) {L k : Nat} (h : k < L) :
    KeepsOutside s.mem (s.rotateWords L k).mem (wordAddr 0) (wordAddr L) := by
  have hkeep := keepsOutside_writeWords s.mem 0 ((s.mem.readWords (wordAddr 0) L).rotate (k + 1))
  rw [List.length_rotate, Memory.length_readWords, Nat.zero_add] at hkeep
  rwa [State.rotateWords_mem, rotateFrame_eq_rotate (by rwa [Memory.length_readWords])]

/-- Each word of a rotated frame, `out[n] = xseq[(n+k+1) mod L]` (40_frame.md R114). -/
theorem readWord_rotateWords (s : State) {L k n : Nat} (h : k < L) (hn : n < L) :
    (s.rotateWords L k).mem.readWord (wordAddr n) = s.mem.readWord (wordAddr ((n + k + 1) % L)) := by
  have hwords := congrArg (fun ws => ws[n]?) (readWords_rotateWords s h)
  have hmod : (n + (k + 1)) % L < L := Nat.mod_lt _ (by omega)
  simpa [List.getElem?_rotate, hn, hmod, ← wordAddr_add, Nat.add_assoc] using hwords

/-- The sentinel is above every value `LEN` can hold (40_frame.md R113). -/
theorem toNat_lt_sentinel (len : BitVec 17) : len.toNat < (0x80000000#32).toNat := len.isLt.trans (by decide)

/-- A `REORDER` of a good frame with its end address inside the frame rotates the frame. -/
theorem exec_reorder_of_endAddr_lt {s : State} (hgood : s.operands.frameBad = false)
    (hk : s.operands.endAddr.toNat < s.operands.len.toNat) :
    exec .reorder s = .next ((s.rotateWords s.operands.len.toNat s.operands.endAddr.toNat).complete .ok) := by
  rcases execReorder_cases s with ⟨hbad, -⟩ | ⟨-, hsent, -⟩ | ⟨-, -, hout, -⟩ | ⟨-, -, e⟩
  · simp [hgood] at hbad
  · exact absurd (hsent ▸ hk) (toNat_lt_sentinel _).asymm
  · exact absurd hk (not_lt.2 hout)
  · exact e

/-- Settles O16: the word at each index, and the two slices as the indices below and above the wrap. -/
theorem reorderRotatesAtEndAddress : Obligations.ReorderRotatesAtEndAddress := by
  intro s hgood hk
  have hword {n : Nat} (hn : n < s.operands.len.toNat) := readWord_rotateWords s hk hn
  refine ⟨_, exec_reorder_of_endAddr_lt hgood hk, fun n hn => hword hn, fun n hn => ?_, fun n hn => ?_,
    keepsOutside_rotateWords s hk⟩
  · have hindex : (n + s.operands.endAddr.toNat + 1) % s.operands.len.toNat = s.operands.endAddr.toNat + 1 + n := by
      rw [Nat.mod_eq_of_lt (by omega)]
      omega
    exact (hword (by omega)).trans (by rw [hindex])
  · have hindex : (s.operands.len.toNat - s.operands.endAddr.toNat - 1 + n + s.operands.endAddr.toNat + 1) %
        s.operands.len.toNat = n := by
      rw [show s.operands.len.toNat - s.operands.endAddr.toNat - 1 + n + s.operands.endAddr.toNat + 1 =
        n + s.operands.len.toNat by omega, Nat.add_mod_right, Nat.mod_eq_of_lt (by omega)]
    exact (hword (by omega)).trans (by rw [hindex])

/-- Settles O17: a rotation by the whole length moves no word. -/
theorem reorderWithoutWrapKeepsMemory : Obligations.ReorderWithoutWrapKeepsMemory := by
  intro s hgood hlast
  have hk : s.operands.endAddr.toNat < s.operands.len.toNat := by omega
  refine ⟨_, exec_reorder_of_endAddr_lt hgood hk, readByte_eq_of_readWords_eq ?_ (keepsOutside_rotateWords s hk)⟩
  have hwords := readWords_rotateWords s hk
  have hfull := List.rotate_length (s.mem.readWords (wordAddr 0) s.operands.len.toNat)
  rw [Memory.length_readWords] at hfull
  rwa [hlast, hfull] at hwords

/-- Rotations at `k` and then at `L-k-2` restore every byte: together they rotate by the whole length. -/
theorem readByte_rotateWords_undone {s s' : State} {L k k' : Nat} (hk : k' + k + 2 = L)
    (hmem : s'.mem = (s.rotateWords L k).mem) (x : Nat) : (s'.rotateWords L k').mem.readByte x = s.mem.readByte x := by
  refine readByte_eq_of_readWords_eq (L := L) ?_ (fun y hy => ?_) x
  · have hfull := List.rotate_length (s.mem.readWords (wordAddr 0) L)
    rw [Memory.length_readWords] at hfull
    rw [readWords_rotateWords s' (by omega), hmem, readWords_rotateWords s (by omega), List.rotate_rotate,
      show k + 1 + (k' + 1) = L by omega, hfull]
  · rw [keepsOutside_rotateWords s' (by omega) y hy, hmem, keepsOutside_rotateWords s (by omega) y hy]

/-- Settles O18: a rotation permutes, and two rotations whose amounts add up to the length cancel. -/
theorem reorderPermutesAndIsUndone : Obligations.ReorderPermutesAndIsUndone := by
  intro s r hs hgood hk
  have e := exec_reorder_of_endAddr_lt (s := s) (by rwa [State.operands_run hs]) (by rwa [State.operands_run hs])
  rw [State.operands_run hs] at e
  refine ⟨_, e, rfl, rfl, ?permutes, ?undone⟩
  case permutes =>
    rw [State.complete_mem, readWords_rotateWords s hk]
    exact List.rotate_perm _ _
  case undone =>
    intro s' r' hs' hmem hgood' hlen hk'
    have e' := exec_reorder_of_endAddr_lt (s := s') (by rwa [State.operands_run hs'])
      (by rw [State.operands_run hs', hlen]; omega)
    rw [State.operands_run hs', hlen] at e'
    exact ⟨_, e', rfl, readByte_rotateWords_undone hk' hmem⟩

/-- Settles O19: the three refusals exclude each other, and a successful run meets none of their conditions. -/
theorem reorderErrorsKeepWords : Obligations.ReorderErrorsKeepWords := by
  intro s
  rcases execReorder_cases s with ⟨hbad, e⟩ | ⟨hgood, hsent, e⟩ | ⟨hgood, hne, hout, e⟩ | ⟨hgood, hin, -⟩
  · exact ⟨fun _ => e, by simp [hbad], by simp [hbad]⟩
  · exact ⟨by simp [hgood], fun _ _ => e, fun _ hne => absurd hsent hne⟩
  · exact ⟨by simp [hgood], fun _ hsent => absurd hsent hne, fun _ _ _ => e⟩
  · exact ⟨by simp [hgood], fun _ hsent => absurd (hsent ▸ hin) (toNat_lt_sentinel _).asymm,
      fun _ _ hout => absurd hin (not_lt.2 hout)⟩

/-! ## The sticky bits (40_frame.md R111; 60_exceptions.md R196) -/

/-- Neither sticky bit is cleared from one state to the other. -/
def KeepsSticky (s t : State) : Prop :=
  (s.frameBad = true → t.frameBad = true) ∧ (s.overrun = true → t.overrun = true)

/-- Every next state an outcome gives keeps the sticky bits. -/
def LeavesSticky (s : State) (o : Host.Outcome State Fault Refusal) : Prop := ∀ t, o = .next t → KeepsSticky s t

theorem leavesSticky_next {s t : State} (h : KeepsSticky s t) : LeavesSticky s (.next t) := by
  rintro _ ⟨⟩
  exact h

/-- A state that differs in neither sticky bit keeps them. -/
theorem keepsSticky_of_eq {s t : State} (hbad : t.frameBad = s.frameBad) (hover : t.overrun = s.overrun) :
    KeepsSticky s t :=
  ⟨hbad.trans, hover.trans⟩

/-- The end of an analysis writes neither sticky bit. -/
theorem keepsSticky_finishAnalysis (s : State) (inp : AnalyzeInput) (o : AnalyzeOutcome) :
    KeepsSticky s (s.finishAnalysis inp o) := by
  rcases s.finishAnalysis_cases inp o with ⟨-, e⟩ | ⟨-, e⟩ <;> rw [e] <;> exact keepsSticky_of_eq rfl rfl

/-- Of the commands only `CLEAR` clears a sticky bit; `FRAME_PUSH` sets one. -/
theorem exec_leavesSticky (s : State) {i : Instr} (hi : i ≠ .clear) : LeavesSticky s (exec i s) := by
  cases i with
  | nop => exact leavesSticky_next (keepsSticky_of_eq rfl rfl)
  | clear => exact absurd rfl hi
  | framePush =>
    rw [exec]
    rcases execFramePush_cases s with ⟨-, e⟩ | ⟨-, -, e⟩ | ⟨-, -, -, e⟩ | ⟨-, -, -, e⟩ <;> rw [e] <;>
      apply leavesSticky_next
    · exact keepsSticky_of_eq rfl rfl
    · exact ⟨fun _ => rfl, id⟩
    · exact ⟨fun _ => rfl, id⟩
    · exact keepsSticky_of_eq rfl rfl
  | reorder =>
    rw [exec]
    rcases execReorder_cases s with ⟨-, e⟩ | ⟨-, -, e⟩ | ⟨-, -, -, e⟩ | ⟨-, -, e⟩ <;> rw [e] <;>
      exact leavesSticky_next (keepsSticky_of_eq rfl rfl)
  | unpack =>
    rw [exec]
    rcases execUnpack_cases s with ⟨-, e⟩ | ⟨-, -, e⟩ | ⟨-, -, e⟩ <;> rw [e] <;>
      exact leavesSticky_next (keepsSticky_of_eq rfl rfl)
  | analyze =>
    rw [exec]
    rcases execAnalyze_cases s with ⟨-, e⟩ | ⟨-, -, e⟩ | ⟨p, -, -, -, e⟩ | ⟨p, -, -, -, e⟩ <;> rw [e] <;>
      apply leavesSticky_next
    case inr.inr.inr => exact keepsSticky_finishAnalysis s _ _
    all_goals exact keepsSticky_of_eq rfl rfl

/-- The sequencer's turn keeps the sticky bits, or it runs a `CLEAR`, which leaves its run's flag in `OVERRUN`. -/
theorem sequencerTurn_sticky {s t : State} (h : sequencerTurn s = .next t) :
    KeepsSticky s t ∨ ∃ r, s.seq = .run r ∧ r.word = encode .clear ∧ t.overrun = r.dropped := by
  cases hs : s.seq with
  | idle =>
    rw [sequencerTurn_idle hs] at h
    cases h
    exact .inl ⟨id, id⟩
  | run r =>
    rw [sequencerTurn_run hs] at h
    cases hd : decode r.word with
    | error e =>
      rw [runCommand_error hd] at h
      cases h
      exact .inl ⟨id, id⟩
    | ok i =>
      rw [runCommand_ok hd] at h
      by_cases hi : i = .clear
      · subst hi
        cases h
        exact .inr ⟨r, rfl, (onlyItsEncodingDecodes _ _).1 hd, State.droppedInRun_run hs⟩
      · exact .inl (exec_leavesSticky s hi t h)

/-- A write of a register writes neither sticky bit, but that a dropped command sets `OVERRUN`. -/
theorem keepsSticky_writeReg (s : State) (r : RegName) (v : Word) : KeepsSticky s (s.writeReg r v) := by
  cases r with
  | cmd =>
    rw [State.writeReg]
    cases hs : s.seq with
    | idle => rw [State.issue_idle hs]; exact keepsSticky_of_eq rfl rfl
    | run r => rw [State.issue_run hs]; exact ⟨id, fun _ => rfl⟩
  | len =>
    rw [State.writeReg, State.writeLen]
    split <;> exact keepsSticky_of_eq rfl rfl
  | _ => exact keepsSticky_of_eq rfl rfl

theorem keepsSticky_writeTarget (s : State) (t : Target) (v : Word) : KeepsSticky s (s.writeTarget t v) := by
  cases t with
  | reg r => exact keepsSticky_writeReg s r v
  | _ => exact keepsSticky_of_eq rfl rfl

/-- A step keeps the sticky bits, takes a reset, or is the turn of a `CLEAR`, which leaves its run's flag in `OVERRUN`. -/
theorem step_sticky {s t : State} (h : step s = .next t) :
    KeepsSticky s t ∨ ResetNext s ∨ ∃ r, WordRuns (encode .clear) s r ∧ t.overrun = r.dropped := by
  have turn (rest : List Input) (hnext : TurnNext s) (hturn : sequencerTurn (s.withInputs rest) = .next t) :
      KeepsSticky s t ∨ ∃ r, WordRuns (encode .clear) s r ∧ t.overrun = r.dropped :=
    (sequencerTurn_sticky hturn).imp_right fun ⟨r, hs, hword, hdrop⟩ => ⟨r, ⟨hs, hword, hnext⟩, hdrop⟩
  rcases step_next_cases h with ⟨hin, hturn⟩ | ⟨rest, hin, hturn⟩ | ⟨rest, hin, -⟩ | ⟨rest, addr, -, -, -, rfl⟩ |
    ⟨rest, addr, -, v, -, -, -, rfl⟩
  · exact (turn s.inputs (.inl hin) hturn).imp_right .inr
  · exact (turn rest (.inr ⟨rest, hin⟩) hturn).imp_right .inr
  · exact .inr (.inl ⟨rest, hin⟩)
  · obtain ⟨v, d, e⟩ := hostRead_frame (targetAt (apertureOffset addr)) { s with inputs := rest }
    rw [e]
    exact .inl ⟨id, id⟩
  · exact .inl (keepsSticky_writeTarget { s with inputs := rest } _ v)

/-- Settles O58: a step that does not keep them takes a reset or is the turn of a `CLEAR`, and there `OVERRUN` is 0 only when
no word was dropped. -/
theorem stickyBitsClearOnlyByClearOrReset : Obligations.StickyBitsClearOnlyByClearOrReset := by
  intro s t h
  rcases step_sticky h with ⟨hbad, hover⟩ | hreset | ⟨r, hrun, hdrop⟩
  · exact ⟨fun hb => .inl (hbad hb), fun ho => .inl (hover ho)⟩
  · exact ⟨fun _ => .inr (.inl hreset), fun _ => .inr (.inl hreset)⟩
  · refine ⟨fun _ => .inr (.inr ⟨r, hrun⟩), fun _ => ?_⟩
    cases hd : r.dropped with
    | true => exact .inl (hdrop.trans hd)
    | false => exact .inr (.inr ⟨r, hrun, hd⟩)

end Sys2Proof.Machine
end

section
/-!
PROOFS of the unpack family (41_unpack.md): legal layouts and the completions with an error (O22, O21), one field of a word
(O23, O24, O25), normalized samples (O32), and the samples `UNPACK` stores (O20, O26).
-/
namespace Sys2Proof.Machine

open Statements Safety

/-! ## Legal layouts (41_unpack.md R131, R132) -/

/-- The model's check of a layout is the four conditions on its numbers. -/
theorem layoutLegal_iff (l : Layout) :
    layoutLegal l = true ↔ LegalRanges l.msbI.toNat l.lsbI.toNat l.msbQ.toNat l.lsbQ.toNat := by
  simp only [layoutLegal, LegalRanges, Bool.and_eq_true, decide_eq_true_eq]
  omega

/-- A byte field of `LAYOUT` as a number. -/
theorem toNat_extractLsb'_eq_layoutField (w : Word) (lsb : Nat) : (w.extractLsb' lsb 8).toNat = layoutField w lsb := by
  rw [BitVec.extractLsb'_toNat, Nat.shiftRight_eq_div_pow]
  rfl

/-- The fields of the layout a word holds are the word's numbers (30_encoding.md R85). -/
theorem layoutOf_fields (w : Word) :
    (layoutOf w).msbI.toNat = layoutField w 24 ∧ (layoutOf w).lsbI.toNat = layoutField w 16 ∧
      (layoutOf w).msbQ.toNat = layoutField w 8 ∧ (layoutOf w).lsbQ.toNat = layoutField w 0 :=
  have field := toNat_extractLsb'_eq_layoutField w
  ⟨field 24, field 16, field 8, field 0⟩

theorem layoutLegal_layoutOf_iff (w : Word) :
    layoutLegal (layoutOf w) = true ↔
      LegalRanges (layoutField w 24) (layoutField w 16) (layoutField w 8) (layoutField w 0) := by
  obtain ⟨hmi, hli, hmq, hlq⟩ := layoutOf_fields w
  rw [layoutLegal_iff, hmi, hli, hmq, hlq]

/-- Both fields of a legal layout end below bit 30, since two bits of each range stand above its field. -/
theorem fields_le_thirty {l : Layout} (h : layoutLegal l = true) :
    l.lsbI.toNat + layoutWidth l ≤ 30 ∧ l.lsbQ.toNat + layoutWidth l ≤ 30 := by
  obtain ⟨⟨hi, hq⟩, hspan, hspan2, hmi, hmq⟩ := (layoutLegal_iff l).1 h
  unfold layoutWidth
  omega

/-- Settles O22: the bounds of the width, and those of the two fields. -/
theorem legalFieldsLieInLowThirtyBits : Obligations.LegalFieldsLieInLowThirtyBits := by
  intro l h
  obtain ⟨h1, h30⟩ := layoutWidth_bounds h
  exact ⟨rfl, h1, h30, fields_le_thirty h⟩

/-! ## How `UNPACK` completes (41_unpack.md R130) -/

theorem exec_unpack_noncontig {s : State} (hbad : s.operands.frameBad = true) :
    exec .unpack s = .next (s.complete .noncontig) := by
  rcases execUnpack_cases s with ⟨-, e⟩ | ⟨hb, -, -⟩ | ⟨hb, -, -⟩
  · exact e
  all_goals exact absurd hbad (by simp [hb])

theorem exec_unpack_format {s : State} (hbad : s.operands.frameBad = false)
    (hl : layoutLegal (layoutOf s.operands.layout) = false) : exec .unpack s = .next (s.complete .format) := by
  rcases execUnpack_cases s with ⟨hb, -⟩ | ⟨-, -, e⟩ | ⟨-, hl', -⟩
  · exact absurd hbad (by simp [hb])
  · exact e
  · exact absurd hl (by simp [hl'])

theorem exec_unpack_ok {s : State} (hbad : s.operands.frameBad = false)
    (hl : layoutLegal (layoutOf s.operands.layout) = true) :
    exec .unpack s = .next ((s.unpackWords s.operands).complete .ok) := by
  rcases execUnpack_cases s with ⟨hb, -⟩ | ⟨-, hl', -⟩ | ⟨-, -, e⟩
  · exact absurd hbad (by simp [hb])
  · exact absurd hl (by simp [hl'])
  · exact e

/-- Settles O21: a bad frame completes whatever the layout, and a layout outside the four conditions is not legal. -/
theorem unpackErrorsKeepOutputs : Obligations.UnpackErrorsKeepOutputs := by
  intro s
  refine ⟨exec_unpack_noncontig, fun hbad hranges => exec_unpack_format hbad ?_⟩
  exact Bool.eq_false_iff.2 (mt (layoutLegal_layoutOf_iff _).1 hranges)

/-! ## The raw field (41_unpack.md R133) -/

theorem rawField_eq (w : Word) (lsb width : Nat) : rawField w lsb width = w.toNat / 2 ^ lsb % 2 ^ width := by
  rw [rawField, Nat.and_two_pow_sub_one_eq_mod, Nat.shiftRight_eq_div_pow]

/-- Bit `i` of a raw field is bit `lsb + i` of the word, below the width. -/
theorem testBit_rawField (w : Word) (lsb width i : Nat) :
    (rawField w lsb width).testBit i = (decide (i < width) && w.getLsbD (lsb + i)) := by
  rw [rawField_eq, Nat.testBit_mod_two_pow, Nat.testBit_div_two_pow, BitVec.testBit_toNat, Nat.add_comm]

/-- Words that agree on the bits of a field have the same raw field. -/
theorem rawField_congr {w w' : Word} {lsb width : Nat}
    (h : ∀ b, lsb ≤ b → b < lsb + width → w.getLsbD b = w'.getLsbD b) : rawField w lsb width = rawField w' lsb width := by
  refine Nat.eq_of_testBit_eq fun i => ?_
  rw [testBit_rawField, testBit_rawField]
  by_cases hi : i < width
  · rw [h (lsb + i) (by omega) (by omega)]
  · simp [hi]

/-- Settles O23: a field's value is a function of its raw field. -/
theorem unpackReadsOnlyItsField : Obligations.UnpackReadsOnlyItsField := by
  intro l w w' _
  constructor <;> intro h
  · rw [unpackI, unpackI, unpackField, unpackField, rawField_congr h]
  · rw [unpackQ, unpackQ, unpackField, unpackField, rawField_congr h]

/-! ## Fields of width 1 (41_unpack.md R136) -/

theorem rawField_one (w : Word) (lsb : Nat) : rawField w lsb 1 = (w.getLsbD lsb).toNat := by
  rw [rawField_eq, pow_one, ← BitVec.testBit_toNat, Nat.toNat_testBit]

theorem unpackField_one (w : Word) (lsb : Nat) :
    unpackField w lsb 1 = if w.getLsbD lsb then 0xFFFFFFFF#32 else 0#32 := by
  rw [unpackField, rawField_one]
  cases w.getLsbD lsb <;> decide

theorem normalize_unpackField_one (w : Word) (lsb : Nat) :
    normalize 1 (unpackField w lsb 1) = if w.getLsbD lsb then -1 else 0 := by
  rw [unpackField_one]
  cases w.getLsbD lsb <;> simp [normalize]

/-- Settles O24: both fields are fields of width 1. -/
theorem widthOneFieldsAreZeroOrMinusOne : Obligations.WidthOneFieldsAreZeroOrMinusOne := by
  intro l w _ hspan
  have hwidth : layoutWidth l = 1 := by
    unfold layoutWidth
    omega
  rw [unpackI, unpackQ, hwidth]
  exact ⟨rfl, rawField_one w _, unpackField_one w _, unpackField_one w _, normalize_unpackField_one w _,
    normalize_unpackField_one w _⟩

/-! ## The signed value of a field (41_unpack.md R134) -/

/-- The statement's signed field is the sign extension of the model's raw field. -/
theorem signedField_eq_sext (w : Word) (lsb width : Nat) : signedField w lsb width = sext width (rawField w lsb width) := by
  rw [signedField, sext, rawField_eq]

theorem unpackField_eq_ofInt_signedField (w : Word) (lsb width : Nat) :
    unpackField w lsb width = BitVec.ofInt 32 (signedField w lsb width) := by
  rw [unpackField, signedField_eq_sext]

/-- A field of a legal width is stored without loss: the word read as a signed number is the signed field. -/
theorem toInt_unpackField (w : Word) (lsb : Nat) {width : Nat} (h1 : 1 ≤ width) (h30 : width ≤ 30) :
    (unpackField w lsb width).toInt = sext width (rawField w lsb width) := by
  have hraw : rawField w lsb width < 2 ^ width := by
    rw [rawField_eq]
    exact Nat.mod_lt _ (by positivity)
  obtain ⟨hlo, hhi⟩ := sext_bounds h1 hraw
  have hp : (2 : Int) ^ (width - 1) ≤ 2 ^ 31 := pow_le_pow_right₀ (by norm_num) (by omega)
  exact BitVec.toInt_ofInt_eq_self (by decide) (by omega) (by omega)

/-! ## A packed pair (41_unpack.md R139) -/

/-- Sign extension undoes the reduction modulo `2^W` on the numbers of width `W`. -/
theorem sext_emod {width : Nat} (h1 : 1 ≤ width) {z : Int} (hlo : -(2 : Int) ^ (width - 1) ≤ z)
    (hhi : z < (2 : Int) ^ (width - 1)) : sext width (z % 2 ^ width).toNat = z := by
  obtain ⟨k, rfl⟩ := Nat.exists_eq_add_of_le' h1
  rw [Nat.add_sub_cancel] at hlo hhi
  have hpow : (2 : Int) ^ (k + 1) = 2 ^ k * 2 := pow_succ 2 k
  have hcast : ((2 ^ k : Nat) : Int) = 2 ^ k := by norm_cast
  rw [sext, Nat.add_sub_cancel]
  by_cases hz : 0 ≤ z
  · rw [Int.emod_eq_of_lt hz (by omega), if_neg (by omega)]
    omega
  · rw [← Int.add_emod_right, Int.emod_eq_of_lt (by omega) (by omega), if_pos (by omega)]
    omega

/-- A number of `W` bits placed at `lsb` is the raw field there, whatever `W` bits stand outside the field. -/
theorem rawField_packed {x y width lsb other : Nat} (hx : x < 2 ^ width) (hy : y < 2 ^ width) (hfit : lsb + width ≤ 32)
    (hdisj : lsb + width ≤ other ∨ other + width ≤ lsb) :
    rawField (BitVec.ofNat 32 (x <<< lsb ||| y <<< other)) lsb width = x := by
  have above {v i : Nat} (hv : v < 2 ^ width) (hi : width ≤ i) : v.testBit i = false :=
    Nat.testBit_lt_two_pow (hv.trans_le (Nat.pow_le_pow_right (by decide) hi))
  refine Nat.eq_of_testBit_eq fun i => ?_
  rw [testBit_rawField]
  by_cases hi : i < width
  · have hother : (y <<< other).testBit (lsb + i) = false := by
      rw [Nat.testBit_shiftLeft]
      rcases hdisj with h | h
      · simp [show ¬ other ≤ lsb + i by omega]
      · simp [above hy (show width ≤ lsb + i - other by omega)]
    rw [BitVec.getLsbD_ofNat, Nat.testBit_or, hother, Nat.testBit_shiftLeft, Nat.add_sub_cancel_left]
    simp [hi, show lsb + i < 32 by omega]
  · simp [hi, above hx (Nat.le_of_not_lt hi)]

/-- A signed number packed at `lsb` unpacks to itself, whatever number is packed outside its field. -/
theorem toInt_unpackField_packed {width lsb other : Nat} {a : Int} (b : Int) (h1 : 1 ≤ width) (h30 : width ≤ 30)
    (hfit : lsb + width ≤ 32) (hdisj : lsb + width ≤ other ∨ other + width ≤ lsb)
    (hlo : -(2 : Int) ^ (width - 1) ≤ a) (hhi : a < (2 : Int) ^ (width - 1)) :
    (unpackField (BitVec.ofNat 32 ((a % 2 ^ width).toNat <<< lsb ||| (b % 2 ^ width).toNat <<< other)) lsb width).toInt
      = a := by
  have small (z : Int) : (z % 2 ^ width).toNat < 2 ^ width := by
    have hnn := Int.emod_nonneg z (b := 2 ^ width) (by positivity)
    have hlt := Int.emod_lt_of_pos z (b := 2 ^ width) (by positivity)
    have hcast : ((2 ^ width : Nat) : Int) = 2 ^ width := by norm_cast
    omega
  rw [toInt_unpackField _ _ h1 h30, rawField_packed (small a) (small b) hfit hdisj, sext_emod h1 hlo hhi]

/-- Settles O25: each number by its own field, Q with the two fields in the other order. -/
theorem packedPairUnpacksExactly : Obligations.PackedPairUnpacksExactly := by
  intro l a b hl hdisj halo hahi hblo hbhi
  obtain ⟨h1, h30⟩ := layoutWidth_bounds hl
  obtain ⟨hfitI, hfitQ⟩ := fields_le_thirty hl
  have hI : (unpackI l (packPair l a b)).toInt = a :=
    toInt_unpackField_packed b h1 h30 (by omega) hdisj halo hahi
  have hQ : (unpackQ l (packPair l a b)).toInt = b := by
    rw [unpackQ, packPair, Nat.or_comm]
    exact toInt_unpackField_packed a h1 h30 (by omega) hdisj.symm hblo hbhi
  exact ⟨hI, hQ, by simp [normalize, hI], by simp [normalize, hQ]⟩

/-! ## Normalized samples (41_unpack.md R135) -/

/-- Settles O32: the range of the raw value divided by `2^(W-1)`; a raw value is an integer, so it is at most
`2^(W-1) - 1`. -/
theorem normalizedSamplesLieInUnitRange : Obligations.NormalizedSamplesLieInUnitRange := by
  rintro W w - ⟨hlo, hhi⟩
  have hp : (0 : Rat) < 2 ^ (W - 1) := by positivity
  have hlo' : -(2 : Rat) ^ (W - 1) ≤ w.toInt := by exact_mod_cast hlo
  have hhi' : (w.toInt : Rat) + 1 ≤ 2 ^ (W - 1) := by exact_mod_cast hhi
  have hnorm : normalize W w = w.toInt / 2 ^ (W - 1) := by simp [normalize]
  rw [hnorm]
  refine ⟨?_, ?_, ?_⟩
  · rw [le_div_iff₀ hp]
    linarith
  · rw [one_sub_div hp.ne', div_le_div_iff_of_pos_right hp]
    linarith
  · rw [div_eq_iff hp.ne', neg_one_mul]
    exact_mod_cast Iff.rfl

/-! ## The samples `UNPACK` stores (41_unpack.md R130, R138) -/

/-- Element `n` of `IQI` after `UNPACK` is the I field of `WORD[n]`; the store to `IQQ` lies above it. -/
theorem State.readWord_iqi_unpackWords (s : State) {S : Snapshot} {n : Nat} (hn : n < S.len.toNat)
    (hL : S.len.toNat ≤ 65536) :
    (s.unpackWords S).mem.readWord (iqiAddr n) = unpackI (layoutOf S.layout) (s.mem.readWord (wordAddr n)) := by
  have hb := window_bases
  rw [unpackWords_mem, Memory.readWord_writeWords_outside _ (.inl (by unfold iqiAddr iqqAddr; omega)),
    show iqiAddr n = iqiAddr 0 + 4 * n from rfl, Memory.readWord_writeWords_inside _ _ (by simpa using hn),
    List.getElem_map, Memory.getElem_readWords, show wordAddr 0 + 4 * n = wordAddr n from rfl]

/-- Element `n` of `IQQ` after `UNPACK` is the Q field of `WORD[n]`. -/
theorem State.readWord_iqq_unpackWords (s : State) {S : Snapshot} {n : Nat} (hn : n < S.len.toNat) :
    (s.unpackWords S).mem.readWord (iqqAddr n) = unpackQ (layoutOf S.layout) (s.mem.readWord (wordAddr n)) := by
  rw [unpackWords_mem, show iqqAddr n = iqqAddr 0 + 4 * n from rfl,
    Memory.readWord_writeWords_inside _ _ (by simpa using hn), List.getElem_map, Memory.getElem_readWords,
    show wordAddr 0 + 4 * n = wordAddr n from rfl]

/-- A byte outside the elements `0 .. L-1` of `IQI` and of `IQQ` reads as before. -/
theorem State.readByte_unpackWords_outside (s : State) {S : Snapshot} {x : Nat}
    (hi : x < iqiAddr 0 ∨ iqiAddr S.len.toNat ≤ x) (hq : x < iqqAddr 0 ∨ iqqAddr S.len.toNat ≤ x) :
    (s.unpackWords S).mem.readByte x = s.mem.readByte x := by
  rw [unpackWords_mem, Memory.readByte_writeWords_outside _ (by simpa [iqqAddr] using hq),
    Memory.readByte_writeWords_outside _ (by simpa [iqiAddr] using hi)]

/-- A word outside the elements `0 .. L-1` of `IQI` and of `IQQ` reads as before. -/
theorem State.readWord_unpackWords_outside (s : State) {S : Snapshot} {x : Nat}
    (hi : x + 4 ≤ iqiAddr 0 ∨ iqiAddr S.len.toNat ≤ x) (hq : x + 4 ≤ iqqAddr 0 ∨ iqqAddr S.len.toNat ≤ x) :
    (s.unpackWords S).mem.readWord x = s.mem.readWord x := by
  rw [unpackWords_mem, Memory.readWord_writeWords_outside _ (by simpa [iqqAddr] using hq),
    Memory.readWord_writeWords_outside _ (by simpa [iqiAddr] using hi)]

/-- Settles O20: the stored words by the laws of the store, their values by the laws of a field. -/
theorem unpackStoresSignedFields : Obligations.UnpackStoresSignedFields := by
  rintro s mi li mq lq W hmi hli hmq hlq hW hbad hranges hL
  obtain ⟨hmsb, hlsbI, -, hlsbQ⟩ := layoutOf_fields s.operands.layout
  have hl : layoutLegal (layoutOf s.operands.layout) = true := by
    rw [layoutLegal_layoutOf_iff, ← hmi, ← hli, ← hmq, ← hlq]
    exact hranges
  have hwidth : layoutWidth (layoutOf s.operands.layout) = W := by rw [layoutWidth, hmsb, hlsbI, ← hmi, ← hli, hW]
  obtain ⟨h1, h30⟩ := layoutWidth_bounds hl
  rw [hwidth] at h1 h30
  refine ⟨(s.unpackWords s.operands).mem, ?_, fun n hn => ?_, fun x hi hq => s.readByte_unpackWords_outside hi hq⟩
  · rw [exec_unpack_ok hbad hl, ← hwidth]
    rfl
  · rw [s.readWord_iqi_unpackWords hn hL, s.readWord_iqq_unpackWords hn, unpackI, unpackQ, hwidth, hlsbI, hlsbQ, ← hli, ← hlq,
      toInt_unpackField _ _ h1 h30, toInt_unpackField _ _ h1 h30, signedField_eq_sext, signedField_eq_sext]
    exact ⟨rfl, rfl, rfl, rfl, inWidth_unpackField _ _ h1 h30, inWidth_unpackField _ _ h1 h30⟩

/-- Settles O26: both runs store functions of the layout and `WORD[n]` alone, and nothing from element `L` on. -/
theorem unpackLanesAreIndependent : Obligations.UnpackLanesAreIndependent := by
  intro s s' hbad hbad' hl hlayout hL hL'
  refine ⟨_, _, exec_unpack_ok hbad hl, exec_unpack_ok hbad' (hlayout ▸ hl), fun n hn hn' hword => ?_, fun n hn hcap => ?_⟩
  · simp only [State.complete_mem]
    rw [s.readWord_iqi_unpackWords hn hL, s'.readWord_iqi_unpackWords hn' hL', s.readWord_iqq_unpackWords hn,
      s'.readWord_iqq_unpackWords hn', hlayout, hword]
    exact ⟨rfl, rfl⟩
  · have hb := window_bases
    exact ⟨s.readWord_unpackWords_outside (.inr (by unfold iqiAddr; omega)) (.inl (by unfold iqiAddr iqqAddr; omega)),
      s.readWord_unpackWords_outside (.inr (by unfold iqiAddr iqqAddr; omega)) (.inr (by unfold iqqAddr; omega))⟩

end Sys2Proof.Machine
end

section
/-!
PROOFS of the analyzer family (42_analyze.md), the reference: the shifted axis (O33), the energy and its bound (O34, O35), what
rotating and scaling the samples does (O36, O37), pure tones (O38), and the bin that is no tone (O39). The factors of the
transform are the integer powers of one primitive root of unity, which are orthogonal.
-/
namespace Sys2Proof.Machine

/-! ## The factors of the transform as powers of one root of unity -/

/-- The first of the `N`-th roots of unity, `exp(2πj/N)`. -/
noncomputable def unitRoot (N : Nat) : ℂ := Complex.exp (2 * Real.pi * Complex.I / N)

theorem isPrimitiveRoot_unitRoot {N : Nat} (hN : N ≠ 0) : IsPrimitiveRoot (unitRoot N) N :=
  Complex.isPrimitiveRoot_exp N hN

theorem unitRoot_ne_zero (N : Nat) : unitRoot N ≠ 0 := Complex.exp_ne_zero _

/-- Any integer multiple of the root's exponent is an integer power of the root. -/
theorem unitRoot_zpow (N : Nat) (k : Int) : unitRoot N ^ k = Complex.exp (2 * Real.pi * Complex.I * k / N) := by
  rw [unitRoot, ← Complex.exp_int_mul]
  congr 1
  ring

/-- Every power of the root has modulus 1. -/
theorem norm_unitRoot_zpow (N : Nat) (k : Int) : ‖unitRoot N ^ k‖ = 1 := by
  have hnorm : ‖unitRoot N‖ = 1 := by simp [unitRoot, Complex.norm_exp]
  rw [norm_zpow, hnorm, one_zpow]

/-- Conjugation inverts the powers of the root. -/
theorem conj_unitRoot_zpow (N : Nat) (k : Int) : (starRingEnd ℂ) (unitRoot N ^ k) = unitRoot N ^ (-k) := by
  rw [unitRoot_zpow, unitRoot_zpow, ← Complex.exp_conj]
  congr 1
  simp [map_ofNat, neg_div]

/-- Orthogonality: the powers of `ζ^k` over a period sum to `N` when `ζ^k = 1`, and cancel otherwise. -/
theorem sum_unitRoot_zpow {N : Nat} (hN : N ≠ 0) (k : Int) :
    ∑ n ∈ Finset.range N, unitRoot N ^ (k * n) = if (N : Int) ∣ k then (N : ℂ) else 0 := by
  have hroot := isPrimitiveRoot_unitRoot hN
  simp only [zpow_mul, zpow_natCast]
  split_ifs with hk
  · simp [(hroot.zpow_eq_one_iff_dvd k).2 hk]
  · have hne : unitRoot N ^ k ≠ 1 := mt (hroot.zpow_eq_one_iff_dvd k).1 hk
    have hper : (unitRoot N ^ k) ^ N = 1 := by
      rw [← zpow_natCast, ← zpow_mul]
      exact (hroot.zpow_eq_one_iff_dvd _).2 (dvd_mul_left _ _)
    rw [geom_sum_eq hne, hper, sub_self, zero_div]

/-- Orthogonality for an index below `N`: only the index that agrees with `k` modulo `N` gives a sum. -/
theorem sum_unitRoot_zpow_sub {N m : Nat} (hm : m < N) (k : Int) :
    ∑ n ∈ Finset.range N, unitRoot N ^ ((k - m) * n) = if (m : Int) = k % N then (N : ℂ) else 0 := by
  have hdvd : (N : Int) ∣ k - m ↔ (m : Int) = k % N := by
    rw [← Int.modEq_iff_dvd, Int.ModEq, Int.emod_eq_of_lt (Int.natCast_nonneg m) (by exact_mod_cast hm)]
  simp only [sum_unitRoot_zpow (Nat.ne_zero_of_lt hm), hdvd]

namespace AnalyzeInput

variable (inp : AnalyzeInput)

/-- The transform in powers of the root (42_analyze.md R160). -/
theorem transform_eq (m : Nat) :
    inp.transform m = ∑ n ∈ Finset.range inp.length, inp.sample n * unitRoot inp.length ^ (-(m : Int) * n) := by
  refine Finset.sum_congr rfl fun n _ => ?_
  rw [unitRoot_zpow]
  congr 2
  push_cast
  ring

theorem length_ne_zero {inp : AnalyzeInput} (h : inp.samples ≠ []) : inp.length ≠ 0 :=
  mt List.length_eq_zero_iff.1 h

/-! ## Energy (42_analyze.md R175 item 2) -/

/-- The squared modulus of `X[m]` as a double sum over the samples. -/
theorem norm_sq_transform (m : Nat) :
    ((‖inp.transform m‖ ^ 2 : ℝ) : ℂ) = ∑ n ∈ Finset.range inp.length, ∑ l ∈ Finset.range inp.length,
      inp.sample n * (starRingEnd ℂ) (inp.sample l) * unitRoot inp.length ^ (((l : Int) - n) * m) := by
  push_cast
  rw [← Complex.mul_conj', transform_eq, map_sum, Finset.sum_mul_sum]
  refine Finset.sum_congr rfl fun n _ => Finset.sum_congr rfl fun l _ => ?_
  have hexp : ((l : Int) - n) * m = -(m : Int) * n + -(-(m : Int) * l) := by ring
  rw [map_mul, conj_unitRoot_zpow, hexp, zpow_add₀ (unitRoot_ne_zero _)]
  ring

/-- Parseval's identity for the transform. -/
theorem sum_norm_sq_transform :
    ∑ m ∈ Finset.range inp.length, ‖inp.transform m‖ ^ 2 =
      inp.length * ∑ n ∈ Finset.range inp.length, ‖inp.sample n‖ ^ 2 := by
  apply Complex.ofReal_injective
  calc ((∑ m ∈ Finset.range inp.length, ‖inp.transform m‖ ^ 2 : ℝ) : ℂ)
      = ∑ n ∈ Finset.range inp.length, ∑ l ∈ Finset.range inp.length,
          inp.sample n * (starRingEnd ℂ) (inp.sample l) *
            ∑ m ∈ Finset.range inp.length, unitRoot inp.length ^ (((l : Int) - n) * m) := by
        rw [Complex.ofReal_sum, Finset.sum_congr rfl fun m _ => inp.norm_sq_transform m, Finset.sum_comm]
        refine Finset.sum_congr rfl fun n _ => ?_
        rw [Finset.sum_comm]
        simp only [Finset.mul_sum]
    _ = ∑ n ∈ Finset.range inp.length, inp.length * inp.sample n * (starRingEnd ℂ) (inp.sample n) := by
        refine Finset.sum_congr rfl fun n hn => ?_
        have hsingle (l : Nat) (hl : l ∈ Finset.range inp.length) : (n : Int) = (l : Int) % inp.length ↔ l = n := by
          rw [← Int.natCast_emod, Nat.mod_eq_of_lt (Finset.mem_range.1 hl), Nat.cast_inj, eq_comm]
        rw [Finset.sum_eq_single_of_mem n hn fun l hl hne => ?other] <;> rw [sum_unitRoot_zpow_sub (Finset.mem_range.1 hn)]
        · rw [if_pos ((hsingle n hn).2 rfl)]
          ring
        case other => rw [if_neg (mt (hsingle l hl).1 hne), mul_zero]
    _ = ((inp.length * ∑ n ∈ Finset.range inp.length, ‖inp.sample n‖ ^ 2 : ℝ) : ℂ) := by
        push_cast
        simp only [Finset.mul_sum, ← Complex.mul_conj', mul_assoc]

end AnalyzeInput

/-- Settles O34: Parseval's identity divided by `N^2`. -/
theorem spectrumKeepsEnergy : Obligations.SpectrumKeepsEnergy := by
  intro inp h
  have hN : (inp.length : ℝ) ≠ 0 := Nat.cast_ne_zero.2 (AnalyzeInput.length_ne_zero h)
  simp only [AnalyzeInput.unshiftedPower]
  rw [← Finset.sum_div, AnalyzeInput.sum_norm_sq_transform]
  field_simp

/-! ## The bound on the total power (42_analyze.md R175 item 2) -/

/-- The input of log 15: one sample `-1 - j`. -/
def loudest : AnalyzeInput := { samples := [(-1, -1)], fs := 1, cf := 0, bw := 1, th := 0 }

/-- With one sample the only power is the sample's squared modulus. -/
theorem powerSum_loudest : loudest.powerSum (List.range loudest.length) = 2 := by
  have hlen : loudest.length = 1 := rfl
  have hunshifted : loudest.unshifted 0 = 0 := rfl
  have hsum : loudest.powerSum (List.range loudest.length) =
      ∑ m ∈ Finset.range loudest.length, loudest.unshiftedPower m := by
    simp [AnalyzeInput.powerSum, AnalyzeInput.power, hlen, hunshifted]
  rw [hsum, spectrumKeepsEnergy loudest (List.cons_ne_nil _ _), hlen, Finset.sum_range_one, ← Complex.normSq_eq_norm_sq]
  norm_num [AnalyzeInput.sample, loudest, Complex.normSq_mk]

/-- Refutes O35: a single sample `-1 - j` lies in range and has total power 2. -/
theorem not_totalPowerIsBelowTwo : ¬ Obligations.TotalPowerIsBelowTwo := by
  intro h
  have hlt := h loudest (List.cons_ne_nil _ _) (by simp [loudest])
  rw [powerSum_loudest] at hlt
  exact lt_irrefl _ hlt

/-! ## Rotation (42_analyze.md R175 item 3) -/

/-- A periodic function has the same sum over every period. -/
theorem sum_range_add_of_periodic {f : Nat → ℂ} {N : Nat} (h : Function.Periodic f N) (r : Nat) :
    ∑ n ∈ Finset.range N, f (n + r) = ∑ n ∈ Finset.range N, f n := by
  induction r with
  | zero => rfl
  | succ r ih =>
    have hwrap := Finset.sum_range_succ' (fun n => f (n + r)) N
    rw [Finset.sum_range_succ, ih, Nat.add_comm N r, h r, Nat.zero_add] at hwrap
    rw [add_right_cancel hwrap]
    exact Finset.sum_congr rfl fun n _ => by rw [Nat.add_right_comm, Nat.add_assoc]

namespace AnalyzeInput

variable (inp : AnalyzeInput)

/-- The input with its samples rotated circularly. -/
def rotated (r : Nat) : AnalyzeInput := { inp with samples := inp.samples.rotate r }

@[simp] theorem length_rotated (r : Nat) : (inp.rotated r).length = inp.length := List.length_rotate _ _

/-- Sample `n` after the rotation is sample `n + r`, counted modulo `N`. -/
theorem sample_rotated (r : Nat) {n : Nat} (hn : n < inp.length) :
    (inp.rotated r).sample n = inp.sample ((n + r) % inp.length) := by
  have hgetD : (inp.samples.rotate r).getD n (0, 0) = inp.samples.getD ((n + r) % inp.samples.length) (0, 0) := by
    rw [List.getD_eq_getElem?_getD, List.getElem?_rotate hn, List.getD_eq_getElem?_getD]
  simp only [sample, rotated, hgetD, length]

/-- The `n`-th term of `X[m]`, the samples continued periodically. -/
noncomputable def term (m n : Nat) : ℂ := inp.sample (n % inp.length) * unitRoot inp.length ^ (-(m : Int) * n)

/-- The transform is the sum of its terms. -/
theorem transform_eq_sum_term (m : Nat) : inp.transform m = ∑ n ∈ Finset.range inp.length, inp.term m n := by
  rw [transform_eq]
  exact Finset.sum_congr rfl fun n hn => by rw [term, Nat.mod_eq_of_lt (Finset.mem_range.1 hn)]

theorem term_periodic (m : Nat) : Function.Periodic (inp.term m) inp.length := by
  intro n
  rcases Nat.eq_zero_or_pos inp.length with hN | hN
  · rw [hN, Nat.add_zero]
  · have hturn : unitRoot inp.length ^ (-(m : Int) * inp.length) = 1 :=
      ((isPrimitiveRoot_unitRoot hN.ne').zpow_eq_one_iff_dvd _).2 (dvd_mul_left _ _)
    rw [term, term, Nat.add_mod_right, Nat.cast_add, mul_add, zpow_add₀ (unitRoot_ne_zero _), hturn, mul_one]

/-- Rotating the samples turns `X[m]` by a power of the root. -/
theorem transform_rotated (r m : Nat) :
    (inp.rotated r).transform m = unitRoot inp.length ^ ((m : Int) * r) * inp.transform m := by
  rw [transform_eq, length_rotated, transform_eq_sum_term, ← sum_range_add_of_periodic (inp.term_periodic m) r,
    Finset.mul_sum]
  refine Finset.sum_congr rfl fun n hn => ?_
  have hexp : -(m : Int) * n = m * r + -(m : Int) * ((n + r : Nat) : Int) := by push_cast; ring
  rw [inp.sample_rotated r (Finset.mem_range.1 hn), term, hexp, zpow_add₀ (unitRoot_ne_zero _)]
  ring

end AnalyzeInput

/-- Settles O36: a factor of modulus 1 changes no power. -/
theorem rotationKeepsSpectrum : Obligations.RotationKeepsSpectrum := by
  intro inp r m
  change (inp.rotated r).unshiftedPower m = inp.unshiftedPower m
  rw [AnalyzeInput.unshiftedPower, AnalyzeInput.unshiftedPower, inp.transform_rotated, inp.length_rotated, norm_mul,
    norm_unitRoot_zpow, one_mul]

/-! ## Scaling (42_analyze.md R175 item 4) -/

namespace AnalyzeInput

variable (inp : AnalyzeInput)

/-- The input with every sample multiplied by `a`. -/
def scaled (a : Rat) : AnalyzeInput := { inp with samples := inp.samples.map fun x => (a * x.1, a * x.2) }

@[simp] theorem length_scaled (a : Rat) : (inp.scaled a).length = inp.length := List.length_map _

theorem sample_scaled (a : Rat) (n : Nat) : (inp.scaled a).sample n = (a : ℂ) * inp.sample n := by
  have hgetD : (inp.scaled a).samples.getD n (0, 0) =
      (a * (inp.samples.getD n (0, 0)).1, a * (inp.samples.getD n (0, 0)).2) := by
    cases hn : inp.samples[n]? <;> simp [scaled, hn]
  simp only [sample, hgetD]
  apply Complex.ext <;> simp

theorem transform_scaled (a : Rat) (m : Nat) : (inp.scaled a).transform m = (a : ℂ) * inp.transform m := by
  simp only [transform, length_scaled, sample_scaled, Finset.mul_sum, mul_assoc]

/-- The band is a matter of the number of samples and the parameters alone (42_analyze.md R163). -/
theorem band_scaled (a : Rat) : (inp.scaled a).band = inp.band := by
  have hin : (inp.scaled a).inBand = inp.inBand := by
    funext k
    simp only [inBand, frequency, dcIndex, length_scaled]
    rfl
  rw [band, band, hin, length_scaled]

end AnalyzeInput

/-- Settles O37: the transform is linear, and the band does not look at the samples' values. -/
theorem scalingScalesSpectrum : Obligations.ScalingScalesSpectrum := by
  intro inp a m
  refine ⟨?_, inp.band_scaled a⟩
  change (inp.scaled a).unshiftedPower m = _
  rw [AnalyzeInput.unshiftedPower, AnalyzeInput.unshiftedPower, inp.transform_scaled, inp.length_scaled, norm_mul, mul_pow,
    ← Complex.ofReal_ratCast, Complex.norm_real, Real.norm_eq_abs, sq_abs, mul_div_assoc]

/-! ## A pure tone (42_analyze.md R175 item 1) -/

/-- The transform of a pure tone at `m0` is `N·A` in the bin that agrees with `m0` modulo `N`, and 0 elsewhere. -/
theorem AnalyzeInput.transform_pureTone {inp : AnalyzeInput} {A : ℝ} {m0 : Int}
    (htone : ∀ n < inp.length, inp.sample n = A * Complex.exp (2 * Real.pi * Complex.I * m0 * n / inp.length)) {m : Nat}
    (hm : m < inp.length) : inp.transform m = A * if (m : Int) = m0 % inp.length then (inp.length : ℂ) else 0 := by
  rw [← sum_unitRoot_zpow_sub hm, transform_eq, Finset.mul_sum]
  refine Finset.sum_congr rfl fun n hn => ?_
  have hsample : inp.sample n = A * unitRoot inp.length ^ (m0 * n) := by
    rw [htone n (Finset.mem_range.1 hn), unitRoot_zpow]
    push_cast
    simp only [mul_assoc]
  rw [hsample, mul_assoc, ← zpow_add₀ (unitRoot_ne_zero _)]
  congr 2
  ring

/-- Settles O38: the squared modulus of the transform of the tone, divided by `N^2`. -/
theorem pureToneFillsOneBin : Obligations.PureToneFillsOneBin := by
  intro inp A m0 h _ htone m hm
  have hN : (inp.length : ℝ) ≠ 0 := Nat.cast_ne_zero.2 (AnalyzeInput.length_ne_zero h)
  rw [AnalyzeInput.unshiftedPower, AnalyzeInput.transform_pureTone htone hm]
  split_ifs
  · rw [norm_mul, Complex.norm_real, Complex.norm_natCast, Real.norm_eq_abs, mul_pow, sq_abs,
      mul_div_cancel_right₀ _ (pow_ne_zero 2 hN)]
  · simp

/-! ## The shifted spectrum (42_analyze.md R161, R162) -/

/-- The bin a shifted index holds, as a natural number: `N - h` further on, modulo `N`. -/
theorem AnalyzeInput.unshifted_eq {inp : AnalyzeInput} (k : Nat) :
    inp.unshifted k = (k + (inp.length - inp.length / 2)) % inp.length := by
  have hle : inp.length / 2 ≤ inp.length := Nat.div_le_self _ _
  have hint : ((k + (inp.length - inp.length / 2) : Nat) : Int) = k - inp.dcIndex + inp.length := by
    unfold dcIndex
    omega
  rw [unshifted, ← Int.add_emod_right, ← hint, ← Int.natCast_emod, Int.toNat_natCast]

/-- Settles O33: the index `h` holds bin 0; the ends of the axis by the parity of `N`. -/
theorem spectrumIsCentredOnDc : Obligations.SpectrumIsCentredOnDc := by
  rintro inp N rfl hpos
  have hlen : inp.samples.length = inp.length := rfl
  rw [hlen] at hpos ⊢
  have hN : (inp.length : Rat) ≠ 0 := Nat.cast_ne_zero.2 hpos.ne'
  have hlast : ((inp.length - 1 : Nat) : Rat) = inp.length - 1 := Nat.cast_pred hpos
  refine ⟨rfl, ?dc, ?zero, fun k _ => by rw [AnalyzeInput.power, inp.unshifted_eq], fun heven => ?even, fun hodd => ?odd⟩
  case dc =>
    rw [AnalyzeInput.power, inp.unshifted_eq, show inp.length / 2 + (inp.length - inp.length / 2) = inp.length by omega,
      Nat.mod_self, AnalyzeInput.dcPower]
  case zero => simp [AnalyzeInput.frequency, AnalyzeInput.dcIndex]
  case even =>
    have hh : (inp.dcIndex : Rat) = inp.length / 2 := Nat.cast_div_charZero (Nat.dvd_of_mod_eq_zero heven)
    rw [AnalyzeInput.frequency, AnalyzeInput.frequency, hh, hlast]
    constructor <;> field_simp <;> push_cast <;> ring
  case odd =>
    have hh : (inp.dcIndex : Rat) = (inp.length - 1) / 2 := by
      rw [eq_div_iff two_ne_zero, ← hlast]
      unfold AnalyzeInput.dcIndex
      exact_mod_cast (show inp.length / 2 * 2 = inp.length - 1 by omega)
    rw [AnalyzeInput.frequency, AnalyzeInput.frequency, hh, hlast]
    constructor <;> field_simp <;> push_cast <;> ring

/-! ## Tones and the threshold (42_analyze.md R164 to R167) -/

theorem AnalyzeInput.power_nonneg (inp : AnalyzeInput) (k : Nat) : 0 ≤ inp.power k := by
  unfold power unshiftedPower
  positivity

theorem AnalyzeInput.mean_nonneg (inp : AnalyzeInput) : 0 ≤ inp.mean :=
  div_nonneg (List.sum_nonneg (by simpa using fun k _ => inp.power_nonneg k)) (Nat.cast_nonneg _)

/-- With `TH >= 0` the threshold is at least the mean. -/
theorem AnalyzeInput.mean_le_threshold {inp : AnalyzeInput} (h : 0 ≤ inp.th) : inp.mean ≤ inp.threshold := by
  have hexp : (0 : ℝ) ≤ (inp.th : ℝ) / 10 := by positivity
  exact le_mul_of_one_le_right inp.mean_nonneg (Real.one_le_rpow (by norm_num) hexp)

/-- Some bin of a non-empty band is at most the mean. -/
theorem AnalyzeInput.exists_power_le_mean {inp : AnalyzeInput} (h : inp.band ≠ []) :
    ∃ k ∈ inp.band, inp.power k ≤ inp.mean := by
  have hB : (inp.band.length : ℝ) ≠ 0 := Nat.cast_ne_zero.2 (List.length_pos_iff.2 h).ne'
  refine List.exists_le_of_sum_le h inp.power (fun _ => inp.mean) (le_of_eq ?_)
  rw [List.map_const', List.sum_replicate, nsmul_eq_mul, mean, mul_div_cancel₀ _ hB, powerSum]

/-- Settles O39: a bin at most the mean is at most the threshold. -/
theorem someInBandBinIsNoTone : Obligations.SomeInBandBinIsNoTone := by
  intro inp _ hband hth
  obtain ⟨k, hk, hle⟩ := AnalyzeInput.exists_power_le_mean hband
  exact ⟨k, hk, hle, hle.trans (AnalyzeInput.mean_le_threshold hth)⟩

end Sys2Proof.Machine
end

section
/-!
PROOFS of the analyzer family (42_analyze.md), the command: its errors (O27, O29), its results (O30), what they depend on (O31),
and the machine that faults out of contract (O52, O59).
-/
namespace Sys2Proof.Machine

open Statements Safety

/-! ## The sign of a binary64 value (30_encoding.md R87) -/

theorem binary64Magnitude_nonneg (e f : Nat) : 0 ≤ binary64Magnitude e f := by
  unfold binary64Magnitude
  split_ifs <;> positivity

/-- Only the fields of a zero give the magnitude 0. -/
theorem binary64Magnitude_eq_zero_iff {e f : Nat} : binary64Magnitude e f = 0 ↔ e = 0 ∧ f = 0 := by
  have hbit : 2 ^ 52 + f ≠ 0 := by omega
  have hpow (n : Nat) : ((2 ^ n : Nat) : Rat) ≠ 0 := by positivity
  unfold binary64Magnitude
  split_ifs with he
  · rw [div_eq_zero_iff, or_iff_left (hpow 1074), Nat.cast_eq_zero, and_iff_right he]
  · exact iff_of_false (Nat.cast_ne_zero.2 (Nat.mul_ne_zero hbit (by positivity))) fun h => he h.1
  · exact iff_of_false (div_ne_zero (Nat.cast_ne_zero.2 hbit) (hpow _)) fun h => he h.1

/-- The value of a finite encoding is its magnitude with the sign of bit 63. -/
theorem binary64Value_eq_some {b : DWord} {v : Rat} (h : binary64Value b = some v) :
    binary64Exponent b ≠ 0x7FF ∧
      v = if binary64Sign b then -binary64Magnitude (binary64Exponent b) (binary64Fraction b)
        else binary64Magnitude (binary64Exponent b) (binary64Fraction b) := by
  rw [binary64Value] at h
  split at h
  · cases h
  · next he => exact ⟨he, (Option.some.inj h).symm⟩

/-- The exponent and the fraction are both 0 exactly when every bit below the sign is. -/
theorem binary64_fields_eq_zero_iff (b : DWord) :
    binary64Exponent b = 0 ∧ binary64Fraction b = 0 ↔ b.extractLsb' 0 63 = 0#63 := by
  rw [← BitVec.toNat_inj]
  simp only [binary64Exponent, binary64Fraction, BitVec.extractLsb'_toNat, Nat.shiftRight_eq_div_pow, BitVec.toNat_ofNat]
  omega

/-- A value is 0 exactly when every bit below the sign is. -/
theorem binary64Value_eq_zero_iff {b : DWord} {v : Rat} (h : binary64Value b = some v) :
    v = 0 ↔ b.extractLsb' 0 63 = 0#63 := by
  rw [(binary64Value_eq_some h).2, ← binary64_fields_eq_zero_iff, ← binary64Magnitude_eq_zero_iff]
  split_ifs <;> simp

/-- A value whose sign bit is set is not positive. -/
theorem binary64Value_nonpos {b : DWord} {v : Rat} (h : binary64Value b = some v) (hsign : b.getLsbD 63 = true) : v ≤ 0 := by
  rw [(binary64Value_eq_some h).2, binary64Sign, if_pos hsign]
  exact neg_nonpos.2 (binary64Magnitude_nonneg _ _)

/-- A finite encoding has no exponent field 0x7FF. -/
theorem exponentField_ne {b : DWord} {v : Rat} (h : binary64Value b = some v) : b.extractLsb' 52 11 ≠ 0x7FF#11 :=
  fun he => (binary64Value_eq_some h).1 (by rw [binary64Exponent, he]; rfl)

/-! ## Legal parameters (42_analyze.md R158) -/

/-- Parameters are legal when each register denotes its value, `FS` is positive and `BW` is not negative. -/
theorem Snapshot.params_eq_some {S : Snapshot} {p : Params} (h : S.params = some p) :
    (binary64Value S.fs = some p.fs ∧ binary64Value S.cf = some p.cf ∧ binary64Value S.bw = some p.bw ∧
      binary64Value S.th = some p.th) ∧ 0 < p.fs ∧ 0 ≤ p.bw := by
  unfold Snapshot.params at h
  split at h
  · next fs cf bw th hfs hcf hbw hth =>
    split at h
    · next hlegal =>
      cases h
      exact ⟨⟨hfs, hcf, hbw, hth⟩, hlegal⟩
    · cases h
  · cases h

/-! ## How `ANALYZE` completes (42_analyze.md R153, R154, R158, R163) -/

theorem exec_analyze_empty {s : State} (hn : s.operands.nsamp = 0#17) :
    exec .analyze s = .next (s.completeAnalysis .empty) := by
  rcases execAnalyze_cases s with ⟨-, e⟩ | ⟨hpos, -⟩ | ⟨_, hpos, -⟩ | ⟨_, hpos, -⟩
  · exact e
  all_goals exact absurd (congrArg BitVec.toNat hn) hpos

theorem exec_analyze_param {s : State} (hn : s.operands.nsamp ≠ 0#17) (hp : s.operands.params = none) :
    exec .analyze s = .next (s.completeAnalysis .param) := by
  rcases execAnalyze_cases s with ⟨hz, -⟩ | ⟨-, -, e⟩ | ⟨_, -, hp', -⟩ | ⟨_, -, hp', -⟩
  · exact absurd (BitVec.eq_of_toNat_eq hz) hn
  · exact e
  all_goals exact nomatch hp.symm.trans hp'

theorem exec_analyze_emptyBand {s : State} {p : Params} (hn : s.operands.nsamp ≠ 0#17) (hp : s.operands.params = some p)
    (hband : (analyzeInput s.mem s.operands p).band = []) :
    exec .analyze s = .next (s.forgetResults.completeAnalysis .emptyBand) := by
  rcases execAnalyze_cases s with ⟨hz, -⟩ | ⟨-, hp', -⟩ | ⟨_, -, -, -, e⟩ | ⟨_, -, hp', hb, -⟩
  · exact absurd (BitVec.eq_of_toNat_eq hz) hn
  · exact nomatch hp.symm.trans hp'
  · exact e
  · cases hp.symm.trans hp'
    exact absurd hband hb

theorem exec_analyze_finish {s : State} {p : Params} (hn : s.operands.nsamp ≠ 0#17) (hp : s.operands.params = some p)
    (hband : (analyzeInput s.mem s.operands p).band ≠ []) :
    exec .analyze s = .next (s.finishAnalysis (analyzeInput s.mem s.operands p)
      (Config.numerics.outcome (analyzeInput s.mem s.operands p))) := by
  rcases execAnalyze_cases s with ⟨hz, -⟩ | ⟨-, hp', -⟩ | ⟨_, -, hp', hb, -⟩ | ⟨_, -, hp', -, e⟩
  · exact absurd (BitVec.eq_of_toNat_eq hz) hn
  · exact nomatch hp.symm.trans hp'
  · cases hp.symm.trans hp'
    exact absurd hb hband
  · cases hp.symm.trans hp'
    exact e

/-- Settles O27: each of the seven illegal encodings contradicts the values of legal parameters. -/
theorem analyzeRejectsEmptyThenParameters : Obligations.AnalyzeRejectsEmptyThenParameters := by
  intro s
  refine ⟨exec_analyze_empty, fun hn hillegal => exec_analyze_param hn (Option.eq_none_iff_forall_ne_some.2 fun p hp => ?_)⟩
  obtain ⟨⟨hfs, hcf, hbw, hth⟩, hpos, hnonneg⟩ := Snapshot.params_eq_some hp
  rcases hillegal with h | h | h | h | h | h | ⟨hsign, hne⟩
  · exact exponentField_ne hfs h
  · exact exponentField_ne hcf h
  · exact exponentField_ne hbw h
  · exact exponentField_ne hth h
  · exact (binary64Value_nonpos hfs h).not_gt hpos
  · exact hpos.ne' ((binary64Value_eq_zero_iff hfs).2 h)
  · exact hne ((binary64Value_eq_zero_iff hbw).1 (le_antisymm (binary64Value_nonpos hbw hsign) hnonneg))

/-! ## The band (42_analyze.md R163) -/

theorem AnalyzeInput.mem_band (inp : AnalyzeInput) (k : Nat) : k ∈ inp.band ↔ k < inp.length ∧ inp.inBand k = true := by
  rw [band, List.mem_filter, List.mem_range]

theorem AnalyzeInput.inBand_iff (inp : AnalyzeInput) (k : Nat) :
    inp.inBand k = true ↔
      inp.centre - inp.bw / 2 ≤ inp.frequency k ∧ inp.frequency k ≤ inp.centre + inp.bw / 2 := by
  rw [inBand, Bool.and_eq_true, decide_eq_true_eq, decide_eq_true_eq]

/-- The frequency of a bin of the analysis of a command with operands `S`. -/
theorem analyzeInput_frequency (m : Memory) (S : Snapshot) (p : Params) (k : Nat) :
    (analyzeInput m S p).frequency k =
      ((k : Rat) - ((S.nsamp.toNat / 2 : Nat) : Rat)) * p.fs / (S.nsamp.toNat : Rat) := by
  rw [AnalyzeInput.frequency, AnalyzeInput.dcIndex, analyzeInput_length]
  rfl

/-- Settles O29: a band that holds no bin is empty, and the results are forgotten. -/
theorem analyzeReportsEmptyBand : Obligations.AnalyzeReportsEmptyBand := by
  intro s p hn hp hwindow
  have hband : (analyzeInput s.mem s.operands p).band = [] := by
    refine List.eq_nil_iff_forall_not_mem.2 fun k hk => ?_
    obtain ⟨hlt, hin⟩ := (AnalyzeInput.mem_band _ k).1 hk
    rw [AnalyzeInput.inBand_iff, analyzeInput_frequency] at hin
    rw [analyzeInput_length] at hlt
    exact hwindow k hlt hin
  refine ⟨s.forgetResults, exec_analyze_emptyBand hn hp hband, fun x hx => ?_⟩
  exact Memory.readByte_forgetResults s.mem s.draws hx

/-! ## The results in memory (42_analyze.md R166, R170) -/

section
variable (m : Memory) (inp : AnalyzeInput) (o : AnalyzeOutcome)

/-- The two halves of `SPEC[k]` are those of the outcome's value; the store to `CLASS` lies above them. -/
theorem Memory.readWord_spec_writeSpectrum (hN : inp.length ≤ 65536) {k : Nat} (hk : k < inp.length) :
    (m.writeSpectrum inp o).readWord (specAddr k) = loHalf (o.spec k) ∧
      (m.writeSpectrum inp o).readWord (specAddr k + 4) = hiHalf (o.spec k) := by
  have hb := window_bases
  have hspec : specAddr k = specAddr 0 + 8 * k := rfl
  have hs : specAddr 0 = Config.specBase := rfl
  have hc : classAddr 0 = Config.classBase := rfl
  rw [writeSpectrum, readWord_writeWords_outside _ (.inl (by omega)), readWord_writeWords_outside _ (.inl (by omega)), hspec]
  have hlen : k < ((List.range inp.length).map o.spec).length := by simpa using hk
  simpa only [List.getElem_map, List.getElem_range] using readWord_writeDWords_inside m (specAddr 0) hlen

/-- `CLASS[k]` is its class word. -/
theorem Memory.readWord_class_writeSpectrum {k : Nat} (hk : k < inp.length) :
    (m.writeSpectrum inp o).readWord (classAddr k) = classWord inp o k := by
  rw [writeSpectrum, show classAddr k = classAddr 0 + 4 * k from rfl, readWord_writeWords_inside _ _ (by simpa using hk),
    List.getElem_map, List.getElem_range]

/-- A byte outside the elements `0 .. N-1` of `SPEC` and of `CLASS` reads as before. -/
theorem Memory.readByte_writeSpectrum_outside {x : Nat} (hs : x < specAddr 0 ∨ specAddr inp.length ≤ x)
    (hc : x < classAddr 0 ∨ classAddr inp.length ≤ x) : (m.writeSpectrum inp o).readByte x = m.readByte x := by
  rw [writeSpectrum, readByte_writeWords_outside _ (by simpa [classAddr] using hc),
    readByte_writeDWords_outside _ (by simpa [specAddr] using hs)]

/-- A bin's class word says whether it is a tone, in band only, or neither. -/
theorem classWord_eq {k : Nat} (hk : k < inp.length) :
    classWord inp o k = if k ∈ inp.tones o then 3#32 else if k ∈ inp.band then 1#32 else 0#32 := by
  simp only [classWord, AnalyzeInput.tones, List.mem_filter, inp.mem_band, hk, true_and]
  cases inp.inBand k <;> simp

end

/-! ## In-range analyses (42_analyze.md R150, R152, R157, R159) -/

/-- A raw value in the range of width `W` normalizes to a component of that width. -/
theorem isComponent_normalize {width : Nat} {w : Word} (h : InWidth width w) : IsComponent width (normalize width w) :=
  ⟨w.toInt, h.1, h.2, rfl⟩

/-- An analysis of samples in the range of a legal width, with legal parameters and a non-empty band, is one `NUMERICS` is
asked about. -/
theorem analyzeInput_inRange {m : Memory} {S : Snapshot} {p : Params} (hpos : 0 < S.nsamp.toNat)
    (hcap : S.nsamp.toNat ≤ 65536) (h1 : 1 ≤ S.sampleWidth.toNat) (h30 : S.sampleWidth.toNat ≤ 30)
    (hsamples : ∀ n < S.nsamp.toNat, InWidth S.sampleWidth.toNat (m.readWord (iqiAddr n)) ∧
      InWidth S.sampleWidth.toNat (m.readWord (iqqAddr n)))
    (hp : S.params = some p) (hband : (analyzeInput m S p).band ≠ []) : (analyzeInput m S p).InRange := by
  obtain ⟨⟨hfs, hcf, hbw, hth⟩, hfspos, hbwnonneg⟩ := Snapshot.params_eq_some hp
  refine ⟨by rw [analyzeInput_length]; exact ⟨hpos, hcap⟩, ⟨_, h1, h30, fun x hx => ?_⟩,
    ⟨⟨_, hfs⟩, ⟨_, hcf⟩, ⟨_, hbw⟩, ⟨_, hth⟩, hfspos, hbwnonneg⟩, hband⟩
  simp only [analyzeInput, Memory.samples, List.mem_map, List.mem_range] at hx
  obtain ⟨n, hn, rfl⟩ := hx
  exact ⟨isComponent_normalize (hsamples n hn).1, isComponent_normalize (hsamples n hn).2⟩

/-! ## The end of an analysis (42_analyze.md R168 to R171) -/

section
variable (s : State) (inp : AnalyzeInput) (o : AnalyzeOutcome)

/-- A finished analysis changes only the completion, the results and the draws. -/
theorem State.finishAnalysis_frame :
    s.finishAnalysis inp o = { s with
      err := (s.finishAnalysis inp o).err, done := true, seq := .idle, sigDb := (s.finishAnalysis inp o).sigDb,
      dcDb := (s.finishAnalysis inp o).dcDb, toneDb := (s.finishAnalysis inp o).toneDb,
      nband := (s.finishAnalysis inp o).nband, ntone := (s.finishAnalysis inp o).ntone,
      nspec := (s.finishAnalysis inp o).nspec, toneValid := (s.finishAnalysis inp o).toneValid,
      mem := (s.finishAnalysis inp o).mem, lastAnalysis := some (s.finishAnalysis inp o).err,
      draws := (s.finishAnalysis inp o).draws } := by
  rcases s.finishAnalysis_cases inp o with ⟨-, e⟩ | ⟨-, e⟩ <;> rw [e] <;> rfl

/-- It keeps every byte of `WORD`, `IQI` and `IQQ`. -/
theorem State.readByte_finishAnalysis_below {x : Nat} (hx : x < specAddr 0) :
    (s.finishAnalysis inp o).mem.readByte x = s.mem.readByte x := by
  rcases s.finishAnalysis_cases inp o with ⟨-, e⟩ | ⟨-, e⟩ <;> rw [e]
  · exact Memory.readByte_forgetResults s.mem s.draws hx
  · exact Memory.readByte_writeSpectrum_outside _ _ _ (.inl hx) (.inl (hx.trans (by decide)))

theorem State.finishAnalysis_of_logDomain (h : o.logDomain = true) :
    s.finishAnalysis inp o = s.forgetResults.completeAnalysis .logDomain := by
  rcases s.finishAnalysis_cases inp o with ⟨-, e⟩ | ⟨h', -⟩
  · exact e
  · exact nomatch h.symm.trans h'

theorem State.finishAnalysis_of_ok (h : o.logDomain = false) :
    s.finishAnalysis inp o = (s.writeResults inp o).completeAnalysis .ok := by
  rcases s.finishAnalysis_cases inp o with ⟨h', -⟩ | ⟨-, e⟩
  · exact nomatch h.symm.trans h'
  · exact e

/-- The code is `LOG_DOMAIN` or `OK`, as the outcome says. -/
theorem State.finishAnalysis_err : (s.finishAnalysis inp o).err = if o.logDomain then .logDomain else .ok := rfl

end

theorem State.withInputs_err (s : State) (rest : List Input) : (s.withInputs rest).err = s.err := rfl

/-- Settles O30: the outcome is `NUMERICS`'s, which conforms in range; its results are stored by `writeResults`. -/
theorem analyzeConformsToReference : Obligations.AnalyzeConformsToReference := by
  rintro s p inp hpos hcap h1 hsamples hp rfl hband
  have hlen := analyzeInput_length s.mem s.operands p
  have hrange (h30 : s.operands.sampleWidth.toNat ≤ 30) := analyzeInput_inRange hpos hcap h1 h30 hsamples hp hband
  have hexec := exec_analyze_finish (fun hn => hpos.ne' (congrArg BitVec.toNat hn)) hp hband
  generalize analyzeInput s.mem s.operands p = inp at hlen hrange hexec hband ⊢
  have hconf (h30 : s.operands.sampleWidth.toNat ≤ 30) := Config.numerics.conforms inp (hrange h30)
  generalize Config.numerics.outcome inp = o at hexec hconf
  refine ⟨o, s.finishAnalysis inp o, hconf, hexec.trans (congrArg _ (s.finishAnalysis_frame inp o)),
    fun x hx => s.readByte_finishAnalysis_below inp o hx, fun hlog => ?_, fun hlog => ?_⟩
  · rw [s.finishAnalysis_of_logDomain inp o hlog, State.completeAnalysis_err]
  have hN : inp.length ≤ 65536 := hlen ▸ hcap
  obtain ⟨htones, hbins⟩ := length_tones_le inp o
  simp only [s.finishAnalysis_of_ok inp o hlog, State.completeAnalysis_err, State.completeAnalysis_draws,
    State.completeAnalysis_nspec, State.completeAnalysis_nband, State.completeAnalysis_ntone,
    State.completeAnalysis_toneValid, State.completeAnalysis_dcDb, State.completeAnalysis_sigDb,
    State.completeAnalysis_toneDb, State.completeAnalysis_mem, State.writeResults_draws, State.writeResults_nspec,
    State.writeResults_nband, State.writeResults_ntone, State.writeResults_toneValid, State.writeResults_dcDb,
    State.writeResults_sigDb, State.writeResults_toneDb, State.writeResults_mem, ← hlen]
  refine ⟨trivial, trivial, ?nspec, ?nband, ?ntone, by simp, trivial, trivial, fun hT => by simp [hT],
    fun hT => by simp [hT], fun k hk => ⟨?spec, ?cls⟩, fun x hx => ?frame⟩
  case nspec => rw [hlen, BitVec.ofNat_toNat, BitVec.setWidth_eq]
  case nband => rw [BitVec.toNat_ofNat, Nat.mod_eq_of_lt (by omega)]
  case ntone => rw [BitVec.toNat_ofNat, Nat.mod_eq_of_lt (by omega)]
  case spec =>
    obtain ⟨hlo, hhi⟩ := s.mem.readWord_spec_writeSpectrum inp o hN hk
    rw [hlo, hhi, halves_append_eq]
  case cls => rw [s.mem.readWord_class_writeSpectrum inp o hk, classWord_eq inp o hk]
  case frame =>
    have hb := window_bases
    exact s.mem.readByte_writeSpectrum_outside inp o (by unfold specAddr classAddr at *; omega)
      (by unfold classAddr at *; omega)

/-! ## What an analysis depends on (42_analyze.md R172) -/

/-- The results that two states hold are the same, in the registers and in the elements below `N` of `SPEC` and `CLASS`. -/
def SameResults (N : Nat) (t t' : State) : Prop :=
  t.nspec = t'.nspec ∧ t.nband = t'.nband ∧ t.ntone = t'.ntone ∧ t.toneValid = t'.toneValid ∧ t.sigDb = t'.sigDb ∧
    t.dcDb = t'.dcDb ∧ t.toneDb = t'.toneDb ∧
    ∀ k < N, t.mem.readWord (specAddr k) = t'.mem.readWord (specAddr k) ∧
      t.mem.readWord (specAddr k + 4) = t'.mem.readWord (specAddr k + 4) ∧
      t.mem.readWord (classAddr k) = t'.mem.readWord (classAddr k)

/-- The results written are a function of the input and the outcome. -/
theorem sameResults_writeResults (s s' : State) {inp : AnalyzeInput} (o : AnalyzeOutcome) (hN : inp.length ≤ 65536) :
    SameResults inp.length (s.writeResults inp o) (s'.writeResults inp o) := by
  refine ⟨rfl, rfl, rfl, rfl, rfl, rfl, rfl, fun k hk => ?_⟩
  obtain ⟨hlo, hhi⟩ := s.mem.readWord_spec_writeSpectrum inp o hN hk
  obtain ⟨hlo', hhi'⟩ := s'.mem.readWord_spec_writeSpectrum inp o hN hk
  exact ⟨hlo.trans hlo'.symm, hhi.trans hhi'.symm,
    (s.mem.readWord_class_writeSpectrum inp o hk).trans (s'.mem.readWord_class_writeSpectrum inp o hk).symm⟩

/-- Settles O31: the checks look at the number of samples, the parameters and the band alone, and the end at the outcome. -/
theorem analyzeDependsOnlyOnItsInput : Obligations.AnalyzeDependsOnlyOnItsInput := by
  intro s s' p hp hp' hnsamp hcap hinp
  by_cases hn : s.operands.nsamp = 0#17
  · exact ⟨_, _, exec_analyze_empty hn, exec_analyze_empty (hnsamp ▸ hn), rfl, nofun⟩
  have hn' : s'.operands.nsamp ≠ 0#17 := hnsamp ▸ hn
  by_cases hband : (analyzeInput s.mem s.operands p).band = []
  · exact ⟨_, _, exec_analyze_emptyBand hn hp hband, exec_analyze_emptyBand hn' hp' (hinp ▸ hband), rfl, nofun⟩
  refine ⟨_, _, exec_analyze_finish hn hp hband, exec_analyze_finish hn' hp' (hinp ▸ hband), ?_⟩
  have hlen := analyzeInput_length s.mem s.operands p
  rw [← hinp, ← hlen]
  rw [← hlen] at hcap
  generalize analyzeInput s.mem s.operands p = inp at hcap
  refine ⟨rfl, fun hok => ?_⟩
  have hlog : (Config.numerics.outcome inp).logDomain = false := by
    rw [State.finishAnalysis_err] at hok
    exact Bool.eq_false_iff.2 fun h => by simp [h] at hok
  rw [s.finishAnalysis_of_ok inp _ hlog, s'.finishAnalysis_of_ok inp _ hlog]
  exact sameResults_writeResults s s' _ hcap

end Sys2Proof.Machine

namespace Sys2Proof.Safety

open Sys2Proof.Machine Sys2Proof.Statements

/-! ## The contract machine (93_implementation_defined.md rows 3 and 4; log 1) -/

theorem contractFault_empty (s : State) : contractFault s .empty = some .emptyInput := if_pos rfl

theorem contractFault_logDomain (s : State) : contractFault s .logDomain = some .logDomain := by
  simp [contractFault]

/-- Near `LOG_DOMAIN` every code but `EMPTY` is a fault. -/
theorem contractFault_near {s : State} {e : ErrCode} (he : e ≠ .empty) (h : AnalyzesNearLogDomain s) :
    contractFault s e = some .logDomain := by
  simp [contractFault, he, h]

theorem contractFault_none {s : State} {e : ErrCode} (hempty : e ≠ .empty) (hlog : e ≠ .logDomain)
    (h : ¬ AnalyzesNearLogDomain s) : contractFault s e = none := by
  simp [contractFault, hempty, hlog, h]

/-- The contract machine takes the fault the contract assigns to the completion. -/
theorem contractStep_fault {s t : State} {f : Fault} (h : step s = .next t) (hrun : sequencerRuns s = true)
    (hf : contractFault s t.err = some f) : contractStep s = .fault f := by
  rcases contractStep_next h with ⟨hidle, -⟩ | ⟨-, hnone, -⟩ | ⟨f', -, hf', e⟩
  · exact nomatch hrun.symm.trans hidle
  · exact nomatch hf.symm.trans hnone
  · cases hf.symm.trans hf'
    exact e

/-- It is `step` where the contract assigns no fault. -/
theorem contractStep_eq_step {s t : State} (h : step s = .next t)
    (hf : sequencerRuns s = true → contractFault s t.err = none) : contractStep s = .next t := by
  rcases contractStep_next h with ⟨-, e⟩ | ⟨-, -, e⟩ | ⟨f, hrun, hf', -⟩
  · exact e
  · exact e
  · exact nomatch (hf hrun).symm.trans hf'

/-- Settles O52: the code of the completion decides, and without a turn on a word there is no completion. -/
theorem contractFaultsOutOfContract : Obligations.ContractFaultsOutOfContract := by
  intro s t h
  refine ⟨fun r hs hturn => ?_, fun hno => contractStep_eq_step h fun hrun => ?_⟩
  · have hrun : sequencerRuns s = true := (sequencerRuns_iff s).2 ⟨⟨r, hs⟩, hturn⟩
    exact ⟨fun he => contractStep_fault h hrun (he ▸ contractFault_empty s),
      fun he => contractStep_fault h hrun (he ▸ contractFault_logDomain s),
      fun hempty hlog hfar => contractStep_eq_step h fun _ => contractFault_none hempty hlog hfar⟩
  · obtain ⟨⟨r, hs⟩, hturn⟩ := (sequencerRuns_iff s).1 hrun
    rcases hno with hidle | hno
    · exact nomatch hs.symm.trans hidle
    · exact absurd hturn hno

/-- The turn of a word that encodes a command executes it, whatever inputs are left. -/
theorem step_wordRuns {s u : State} {r : Run} {i : Instr} (h : WordRuns (encode i) s r) (hexec : exec i s = .next u) :
    ∃ rest, step s = .next (u.withInputs rest) := by
  obtain ⟨hs, hword, hturn⟩ := h
  have hrun (rest : List Input) : runCommand r.word (s.withInputs rest) = .next (u.withInputs rest) := by
    rw [hword, runCommand_ok (decode_encode i), exec_withInputs_of_next hexec]
  rcases hturn with hin | ⟨rest, hin⟩
  · exact ⟨s.inputs, by rw [step_no_input hin, sequencerTurn_run hs]; exact hrun s.inputs⟩
  · exact ⟨rest, by rw [step_turn_run hs hin]; exact hrun rest⟩

/-- The four log arguments of a classification are among those the contract looks at, when it is the one made or the
reference's (42_analyze.md R169, R172 item 4). -/
theorem nearLogDomain_of_arg_le {inp : AnalyzeInput} {o : AnalyzeOutcome} {cls : Nat → Bool}
    (hcls : cls = o.tone ∨ ∀ k, cls k = true ↔ inp.threshold < inp.power k) {a : ℝ} (ha : a ∈ inp.logArgsOf cls)
    (hle : a ≤ (inp.length : ℝ) * (Config.numerics.tolP : ℝ)) : NearLogDomain inp o := by
  refine ⟨a, List.mem_append.2 ?_, hle⟩
  rcases hcls with rfl | href
  · exact .inl ha
  · have heq : cls = inp.referenceTone := by
      funext k
      rw [Bool.eq_iff_iff, href, AnalyzeInput.referenceTone, decide_eq_true_eq]
    exact .inr (heq ▸ ha)

/-- Settles O59: the turn completes with `OK` or `LOG_DOMAIN`, and the command in progress is an analysis near
`LOG_DOMAIN`. -/
theorem contractFaultsNearLogDomain : Obligations.ContractFaultsNearLogDomain := by
  rintro s r p inp cls hw hn hp rfl hband hcls hargs
  obtain ⟨hs, hword, hturn⟩ := hw
  have hnear : NearLogDomain (analyzeInput s.mem r.snap p)
      (Config.numerics.outcome (analyzeInput s.mem r.snap p)) := by
    rcases hargs with h | h | h | ⟨hT, h⟩
    all_goals exact nearLogDomain_of_arg_le hcls (by simp [AnalyzeInput.logArgsOf, *]) h
  have hanalyzes : AnalyzesNearLogDomain s :=
    ⟨r, p, hs, hword ▸ decode_word_analyze, fun hz => hn (BitVec.eq_of_toNat_eq hz), hp, hband, hnear⟩
  rw [← State.operands_run hs] at hn hp hband
  obtain ⟨rest, hstep⟩ := step_wordRuns (i := .analyze) ⟨hs, hword, hturn⟩ (exec_analyze_finish hn hp hband)
  refine contractStep_fault hstep ((sequencerRuns_iff s).2 ⟨⟨r, hs⟩, hturn⟩) (contractFault_near ?_ hanalyzes)
  rw [State.withInputs_err, State.finishAnalysis_err]
  split_ifs <;> decide

end Sys2Proof.Safety
end

section
/-!
PROOFS of the exception family (60_exceptions.md): issue and drop of a command word (O6), what a turn of the sequencer runs (O4)
and that it completes (O7), and that no input of a dutiful host is refused (O51).
-/
namespace Sys2Proof.Machine

open Statements Safety

/-! ## Issue (60_exceptions.md R190) -/

/-- Offset 4 is `CMD` (20_memory.md R64). -/
theorem targetAt_cmd : targetAt 4 = .reg .cmd := targetAt_regOffset .cmd

/-- An address whose aperture offset is 4 is aligned, whatever its upper bits. -/
theorem aligned_of_apertureOffset_eq_four {addr : Word} (h : apertureOffset addr = 4) : addr.toNat % 4 = 0 := by
  rw [apertureOffset] at h
  omega

/-- A step that takes a 32-bit write at any alias of `CMD` issues or drops the word, in any state. -/
theorem step_write_cmd {s : State} {addr c : Word} {rest : List Input}
    (hin : s.inputs = .access (.write addr .bits32 c) :: rest) (ho : apertureOffset addr = 4) :
    step s = .next ((s.issue c).withInputs rest) := by
  rw [step_write hin (aligned_of_apertureOffset_eq_four ho), ho, targetAt_cmd, hostWrite_cmd, State.issue_withInputs]

/-- Settles O6: the write reaches `CMD` at every alias, and `issue` starts a run or drops the word. -/
theorem commandWriteIssuesOrIsDropped : Obligations.CommandWriteIssuesOrIsDropped := by
  intro s addr c rest hin ho
  rw [step_write_cmd hin ho]
  constructor
  · intro h
    rw [State.issue_idle h]
    rfl
  · intro r h
    rw [State.issue_run h]
    rfl

/-! ## The sequencer's turn (60_exceptions.md R200) -/

/-- Settles O4: with no input or with a turn next, the step is the sequencer's turn on a word that decodes. -/
theorem stepRunsDecodedInstruction : Obligations.StepRunsDecodedInstruction := by
  intro s r i hs hd _
  refine ⟨fun hin => ?_, fun rest hin => ?_⟩
  · rw [step_no_input hin, sequencerTurn_run hs, runCommand_ok hd]
  · rw [step_turn_run hs hin, runCommand_ok hd]

/-! ## Completion (60_exceptions.md R191, 70_reset_and_hazards.md R215) -/

/-- A command begun in `s` has completed in `t`: not busy, `DONE` 1, no input taken, and the registers only the host writes as
they were. -/
structure Completed (s t : State) : Prop where
  busy : t.busy = false
  done : t.done = true
  inputs : t.inputs = s.inputs
  registers : t = rewriteRegisters t s

/-- An outcome that is a next state in which the command has completed. -/
def Completes (s : State) (o : Host.Outcome State Fault Refusal) : Prop := ∃ t, o = .next t ∧ Completed s t

theorem completed_complete (s : State) (e : ErrCode) : Completed s (s.complete e) := ⟨rfl, rfl, rfl, rfl⟩

/-- An analysis of a non-empty band completes, whether it stores its results or forgets them. -/
theorem completed_finishAnalysis (s : State) (inp : AnalyzeInput) (o : AnalyzeOutcome) :
    Completed s (s.finishAnalysis inp o) := by
  rw [s.finishAnalysis_frame]
  exact ⟨rfl, rfl, rfl, rfl⟩

/-- Every command completes in every state, whichever way its checks go. -/
theorem exec_completes (i : Instr) (s : State) : Completes s (exec i s) := by
  cases i with
  | nop => exact ⟨_, rfl, completed_complete s .ok⟩
  | clear => exact ⟨_, rfl, rfl, rfl, rfl, rfl⟩
  | framePush =>
    rw [exec]
    rcases execFramePush_cases s with ⟨-, e⟩ | ⟨-, -, e⟩ | ⟨-, -, -, e⟩ | ⟨-, -, -, e⟩ <;>
      exact ⟨_, e, rfl, rfl, rfl, rfl⟩
  | reorder =>
    rw [exec]
    rcases execReorder_cases s with ⟨-, e⟩ | ⟨-, -, e⟩ | ⟨-, -, -, e⟩ | ⟨-, -, e⟩ <;> exact ⟨_, e, rfl, rfl, rfl, rfl⟩
  | unpack =>
    rw [exec]
    rcases execUnpack_cases s with ⟨-, e⟩ | ⟨-, -, e⟩ | ⟨-, -, e⟩ <;> exact ⟨_, e, rfl, rfl, rfl, rfl⟩
  | analyze =>
    rw [exec]
    rcases execAnalyze_cases s with ⟨-, e⟩ | ⟨-, -, e⟩ | ⟨p, -, -, -, e⟩ | ⟨p, -, -, -, e⟩
    case inr.inr.inr => exact ⟨_, e, completed_finishAnalysis s _ _⟩
    all_goals exact ⟨_, e, rfl, rfl, rfl, rfl⟩

/-- Every word completes, a reserved one with `BAD_CMD`. -/
theorem runCommand_completes (c : Word) (s : State) : Completes s (runCommand c s) := by
  cases hd : decode c with
  | ok i => rw [runCommand_ok hd]; exact exec_completes i s
  | error e => exact ⟨_, runCommand_error hd s, completed_complete s .badCmd⟩

/-- Settles O7: the step is the turn of the word held, which completes. -/
theorem everyRunCompletes : Obligations.EveryRunCompletes := by
  intro s r hs hin
  obtain ⟨t, hrun, hbusy, hdone, hinputs, hregs⟩ := runCommand_completes r.word s
  refine ⟨t, by rw [step_no_input hin, sequencerTurn_run hs, hrun], hbusy, hdone, hinputs.trans hin, ?_⟩
  rw [hregs]
  exact ⟨rfl, rfl, rfl, rfl, rfl, rfl, rfl, rfl, rfl, rfl, rfl, rfl⟩

/-! ## The duties of the host (60_exceptions.md R201) -/

/-- The sequencer's turn always gives a next state: an idle one waits, and a word it holds completes. -/
theorem sequencerTurn_answers (s : State) : ∃ t, sequencerTurn s = .next t := by
  cases hs : s.seq with
  | idle => exact ⟨s, sequencerTurn_idle hs⟩
  | run r =>
    obtain ⟨t, hrun, -⟩ := runCommand_completes r.word s
    exact ⟨t, (sequencerTurn_run hs).trans hrun⟩

/-- A dutiful read is well formed. -/
theorem wf_of_dutiful_read {s : State} {addr : Word} {size : AccessSize}
    (h : dutiful s (.access (.read addr size)) = true) : (Access.read addr size).wf = true :=
  (Bool.and_eq_true_iff.1 h).1

/-- A dutiful write is well formed, and no hazard of the running command. -/
theorem wf_and_no_hazard_of_dutiful_write {s : State} {addr v : Word} {size : AccessSize}
    (h : dutiful s (.access (.write addr size v)) = true) :
    (Access.write addr size v).wf = true ∧
      ∀ i S, s.runningCommand = some (i, S) → writeHazard i (targetAt (apertureOffset addr)) = false := by
  simp only [dutiful, Bool.and_eq_true] at h
  obtain ⟨⟨hwf, -⟩, hhazard⟩ := h
  refine ⟨hwf, fun i S hrun => ?_⟩
  simpa [hrun] using hhazard

/-- A write that is no hazard of the running command gives a next state. -/
theorem hostWrite_of_no_hazard {s : State} {t : Target} (v : Word)
    (h : ∀ i S, s.runningCommand = some (i, S) → writeHazard i t = false) :
    hostWrite t v s = .next (s.writeTarget t v) := by
  rcases hostWrite_cases t v s with ⟨i, S, hrun, hhazard, -⟩ | ⟨-, e⟩
  · exact nomatch hhazard.symm.trans (h i S hrun)
  · exact e

/-- An input that keeps the host's duties gives a next state. -/
theorem handleInput_of_dutiful {s : State} {e : Input} (h : dutiful s e = true) : ∃ t, handleInput e s = .next t := by
  cases e with
  | turn => exact sequencerTurn_answers s
  | reset => exact ⟨_, rfl⟩
  | otherMaster => exact nomatch h
  | access a =>
    cases a with
    | read addr size => exact ⟨_, by rw [handleInput, hostAccess_read, if_pos (wf_of_dutiful_read h)]⟩
    | write addr size v =>
      obtain ⟨hwf, hhazard⟩ := wf_and_no_hazard_of_dutiful_write h
      exact ⟨_, by rw [handleInput, hostAccess_write, if_pos hwf, hostWrite_of_no_hazard v hhazard]⟩

/-- The duties do not depend on the events after the next one. -/
theorem dutiful_withInputs (s : State) (rest : List Input) (e : Input) : dutiful (s.withInputs rest) e = dutiful s e := rfl

/-- Settles O51: the step handles the input, which keeps the duties also once it is taken off the list. -/
theorem dutifulInputsAreAccepted : Obligations.DutifulInputsAreAccepted := by
  intro s e rest hin h
  rw [step_input hin]
  exact handleInput_of_dutiful ((dutiful_withInputs s rest e).trans h)

end Sys2Proof.Machine
end

section
/-!
PROOFS of the reset and hazard family (70_reset_and_hazards.md): the state a reset leaves (O53, O54, O56), which host writes
during a run are refused and which store (O46, O47), what reads during a run return (O44, O45), and when the results of an
analysis are meaningful (O60).
-/
namespace Sys2Proof.Machine

open Statements Safety

/-! ## Reset (70_reset_and_hazards.md R210, R211) -/

/-- Settles O53: each register of the reset state by its definition. -/
theorem resetValuesAreTheSpecs : Obligations.ResetValuesAreTheSpecs := by
  exact ⟨by decide, rfl, rfl, rfl, rfl, rfl, rfl, rfl, rfl, rfl, rfl, rfl, rfl, rfl, rfl, rfl, rfl, rfl, rfl, rfl, rfl, rfl, rfl,
    rfl⟩

/-- Settles O54: the step handles the reset, which lists no byte of the buffers. -/
theorem resetAbandonsAnyRun : Obligations.ResetAbandonsAnyRun := by
  intro s rest hin
  exact ⟨⟨[], s.draws, s.draws⟩, s.draws + 1, step_input hin, Memory.wf_empty _ _⟩

/-- Power-on leaves what the platform's reset leaves when no free value has been drawn. -/
theorem reset_eq_hardReset : State.reset = State.hardReset { State.reset with draws := 0 } := rfl

/-- Settles O56: the invariant after a reset, at power-on. -/
theorem resetMeetsInvariant : Obligations.ResetMeetsInvariant := by
  rw [Obligations.ResetMeetsInvariant, reset_eq_hardReset]
  exact inv_hardReset _

/-! ## The address map read backwards (20_memory.md R64) -/

/-- The offsets that stand for a target. -/
def Target.standsAt (o : Nat) : Target → Prop
  | .reg r => o = regOffset r
  | .word n => n < 65536 ∧ wordAddr n ≤ o ∧ o < wordAddr (n + 1)
  | .iqi n => n < 65536 ∧ iqiAddr n ≤ o ∧ o < iqiAddr (n + 1)
  | .iqq n => n < 65536 ∧ iqqAddr n ≤ o ∧ o < iqqAddr (n + 1)
  | .specLo k => k < 65536 ∧ specAddr k ≤ o ∧ o < specAddr k + 4
  | .specHi k => k < 65536 ∧ specAddr k + 4 ≤ o ∧ o < specAddr (k + 1)
  | .cls k => k < 65536 ∧ classAddr k ≤ o ∧ o < classAddr (k + 1)
  | .unmapped => (o < Config.wordBase ∧ regAt o = none) ∨ Config.bufferEnd ≤ o

/-- What an offset stands for stands at that offset. -/
theorem standsAt_of_targetAt {o : Nat} {t : Target} (h : targetAt o = t) : t.standsAt o := by
  subst h
  rcases targetAt_cases o with ⟨r, ho, e⟩ | ⟨n, hn, hlo, hhi, e⟩ | ⟨n, hn, hlo, hhi, e⟩ | ⟨n, hn, hlo, hhi, e⟩ |
    ⟨k, hk, hlo, hhi, e⟩ | ⟨k, hk, hlo, hhi, e⟩ | ⟨k, hk, hlo, hhi, e⟩ | ⟨ho, e⟩ <;> rw [e]
  case inl => exact ho
  case inr.inr.inr.inr.inr.inr.inr => exact ho
  all_goals exact ⟨‹_›, hlo, hhi⟩

/-! ## The running command by its word (30_encoding.md R82) -/

/-- A running command's word is its encoding, and its operands are the run's snapshot. -/
theorem word_of_runningCommand {s : State} {r : Run} {i : Instr} {S : Snapshot} (hs : s.seq = .run r)
    (h : s.runningCommand = some (i, S)) : r.word = encode i ∧ S = r.snap := by
  obtain ⟨r', hs', hd, rfl⟩ := State.runningCommand_eq_some h
  cases hs.symm.trans hs'
  exact ⟨(onlyItsEncodingDecodes _ _).1 hd, rfl⟩

/-! ## Hazardous writes (70_reset_and_hazards.md R217(b)) -/

/-- The hazards of a running command: `WORD` while `FRAME_PUSH`, `REORDER` or `UNPACK` runs, `LEN` while `CLEAR` or `FRAME_PUSH`
runs. -/
theorem writeHazard_iff (i : Instr) (t : Target) :
    writeHazard i t = true ↔
      (∃ n, t = .word n) ∧ (i = .framePush ∨ i = .reorder ∨ i = .unpack) ∨
        t = .reg .len ∧ (i = .clear ∨ i = .framePush) := by
  cases t <;> simp [writeHazard, or_assoc]

/-- A hazardous write is refused. -/
theorem hostWrite_of_hazard {s : State} {r : Run} {i : Instr} {t : Target} (v : Word) (hs : s.seq = .run r)
    (hword : r.word = encode i) (hz : writeHazard i t = true) : hostWrite t v s = .refused .busyWriteHazard := by
  rw [hostWrite, State.runningCommand_run hs (hword ▸ decode_encode i)]
  exact if_pos hz

/-- Settles O46: each command that uses the element or `LEN` makes the write a hazard. -/
theorem hazardousWritesAreRefused : Obligations.HazardousWritesAreRefused := by
  intro s r v rest hs
  refine ⟨fun n hn hword hin => ?word, fun hword hin => ?len⟩
  case word =>
    rw [step_input hin, handleInput_wrWord hn]
    rcases hword with h | h | h
    · exact hostWrite_of_hazard (i := .framePush) v hs h rfl
    · exact hostWrite_of_hazard (i := .reorder) v hs h rfl
    · exact hostWrite_of_hazard (i := .unpack) v hs h rfl
  case len =>
    rw [step_input hin, handleInput_wr]
    rcases hword with h | h
    · exact hostWrite_of_hazard (i := .clear) v hs h rfl
    · exact hostWrite_of_hazard (i := .framePush) v hs h rfl

/-! ## Safe writes -/

/-- No running command makes a write of target `t` a hazard. -/
def NoHazard (s : State) (t : Target) : Prop := ∀ i S, s.runningCommand = some (i, S) → writeHazard i t = false

/-- A register write is no hazard, but for `LEN` while `CLEAR` or `FRAME_PUSH` runs. -/
theorem noHazard_reg {s : State} {r : Run} {n : RegName} (hs : s.seq = .run r)
    (h : n = .len → r.word ≠ encode .clear ∧ r.word ≠ encode .framePush) : NoHazard s (.reg n) := by
  intro i S hrun
  obtain ⟨hword, -⟩ := word_of_runningCommand hs hrun
  refine Bool.eq_false_iff.2 fun hz => ?_
  rcases (writeHazard_iff i _).1 hz with ⟨⟨_, ⟨⟩⟩, -⟩ | ⟨⟨⟩, rfl | rfl⟩
  · exact (h rfl).1 hword
  · exact (h rfl).2 hword

/-- A write of `WORD` is no hazard while none of the commands that use it runs. -/
theorem noHazard_word {s : State} {r : Run} (hs : s.seq = .run r) (hpush : r.word ≠ encode .framePush)
    (hreorder : r.word ≠ encode .reorder) (hunpack : r.word ≠ encode .unpack) (n : Nat) : NoHazard s (.word n) := by
  intro i S hrun
  obtain ⟨hword, -⟩ := word_of_runningCommand hs hrun
  refine Bool.eq_false_iff.2 fun hz => ?_
  rcases (writeHazard_iff i _).1 hz with ⟨-, rfl | rfl | rfl⟩ | ⟨⟨⟩, -⟩
  · exact hpush hword
  · exact hreorder hword
  · exact hunpack hword

/-- Neither `WORD` nor `LEN` stands at an offset that ignores writes, so a write there is no hazard. -/
theorem noHazard_of_ignoresWrites {o : Nat} (h : IgnoresWrites o) (s : State) : NoHazard s (targetAt o) := by
  intro i S _
  refine Bool.eq_false_iff.2 fun hz => ?_
  have hb := window_bases
  unfold IgnoresWrites at h
  rcases (writeHazard_iff i _).1 hz with ⟨⟨n, ht⟩, -⟩ | ⟨ht, -⟩
  · obtain ⟨hn, hlo, hhi⟩ := standsAt_of_targetAt ht
    unfold wordAddr at hlo hhi
    omega
  · have ho : o = 0x14 := standsAt_of_targetAt ht
    omega

/-- A step that takes a write which is no hazard writes the target, as while idle. -/
theorem step_write_of_noHazard {s : State} {addr v : Word} {rest : List Input} {t : Target}
    (hin : s.inputs = .access (.write addr .bits32 v) :: rest) (ha : addr.toNat % 4 = 0)
    (ht : targetAt (apertureOffset addr) = t) (hsafe : NoHazard s t) :
    step s = .next ((s.writeTarget t v).withInputs rest) := by
  rw [step_write hin ha, ht, hostWrite_of_no_hazard (s := s.withInputs rest) v hsafe, State.writeTarget_withInputs]

/-- Settles O47: none of these writes is a hazard, so each has its idle effect. -/
theorem safeWritesStoreWhileBusy : Obligations.SafeWritesStoreWhileBusy := by
  intro s r addr v rest hs hin ha o ho
  have hwrite {t : Target} (ht : targetAt o = t) (hsafe : NoHazard s t) :
      step s = .next ((s.writeTarget t v).withInputs rest) :=
    step_write_of_noHazard hin ha ((congrArg targetAt ho).symm.trans ht) hsafe
  refine ⟨?registers, ?word, ?ignored⟩
  case registers =>
    rintro e he rfl hlen
    rw [registerWrites_eq] at he
    obtain ⟨n, -, rfl⟩ := List.mem_map.1 he
    exact hwrite (targetAt_regOffset n) (noHazard_reg hs fun hn => hlen (hn ▸ rfl))
  case word =>
    rintro n hn rfl hpush hreorder hunpack
    exact ⟨s.mem.writeWord (wordAddr n) v, hwrite (targetAt_wordAddr hn) (noHazard_word hs hpush hreorder hunpack n),
      s.mem.readWord_writeWord_same _ v, keepsOutside_writeWord s.mem n v⟩
  case ignored =>
    intro hign
    rw [hwrite rfl (noHazard_of_ignoresWrites hign s), writeTarget_eq_self hign]
    rfl

/-! ## `STATUS` during a run (70_reset_and_hazards.md R217(a)) -/

/-- The field `ERR` is 0 exactly for `OK` (60_exceptions.md R192). -/
theorem State.status_err_eq_zero_iff (s : State) : s.status.extractLsb' 8 4 = 0#4 ↔ s.err = .ok := by
  obtain ⟨-, -, -, -, -, -, -, hcode⟩ := statusBitsStandInTheirPlaces s
  rw [← BitVec.toNat_inj, hcode]
  cases s.err <;> decide

/-- `STATUS` with other values in the two fields a running command may leave open. -/
def State.statusWith (s : State) (frameBad toneValid : Bool) : Word :=
  State.status { s with frameBad := frameBad, toneValid := toneValid }

theorem frameBadOpen_iff (i : Instr) : frameBadOpen i = true ↔ i = .clear ∨ i = .framePush := by
  cases i <;> simp [frameBadOpen]

theorem toneValidOpen_iff (i : Instr) : toneValidOpen i = true ↔ i = .analyze := by
  cases i <;> simp [toneValidOpen]

/-- While command `i` runs, `STATUS` reads as it stands but for the field `i` leaves open, which reads as a free bit. -/
theorem State.busyStatus_eq (s : State) (i : Instr) :
    s.busyStatus i =
      s.statusWith (if frameBadOpen i then (Config.freeBits s.draws 1).getLsbD 0 else s.frameBad)
        (if toneValidOpen i then (Config.freeBits s.draws 1).getLsbD 0 else s.toneValid) := rfl

theorem rdata_hostRead_status {s : State} {i : Instr} {S : Snapshot} (h : s.runningCommand = some (i, S)) :
    (hostRead (.reg .status) s).rdata = s.busyStatus i := by
  simp [hostRead, h]

theorem rdata_hostRead_status_none {s : State} (h : s.runningCommand = none) :
    (hostRead (.reg .status) s).rdata = s.statusWith s.frameBad s.toneValid := by
  rw [hostRead, h]
  rfl

/-- A read of `STATUS` during a run returns `STATUS` but for the open fields of the command that runs. -/
theorem rdata_hostRead_status_run {s : State} {r : Run} (hs : s.seq = .run r) :
    ∃ frameBad toneValid, (hostRead (.reg .status) s).rdata = s.statusWith frameBad toneValid ∧
      (r.word ≠ encode .clear → r.word ≠ encode .framePush → frameBad = s.frameBad) ∧
      (r.word ≠ encode .analyze → toneValid = s.toneValid) := by
  cases hrun : s.runningCommand with
  | none => exact ⟨s.frameBad, s.toneValid, rdata_hostRead_status_none hrun, fun _ _ => rfl, fun _ => rfl⟩
  | some x =>
    obtain ⟨i, S⟩ := x
    obtain ⟨hword, -⟩ := word_of_runningCommand hs hrun
    refine ⟨_, _, (rdata_hostRead_status hrun).trans (s.busyStatus_eq i), fun hclear hpush => if_neg fun hopen => ?_,
      fun hanalyze => if_neg fun hopen => ?_⟩
    · rcases (frameBadOpen_iff i).1 hopen with rfl | rfl
      · exact hclear hword
      · exact hpush hword
    · exact hanalyze ((toneValidOpen_iff i).1 hopen ▸ hword)

/-- Settles O44: the read returns a `STATUS` whose bits stand in their places, and the invariant gives `DONE` and `ERR`. -/
theorem statusReadsDefinedFieldsWhileBusy : Obligations.StatusReadsDefinedFieldsWhileBusy := by
  intro s r addr rest hinv hs hin ho
  have ha : addr.toNat % 4 = 0 := by omega
  have ht : targetAt (apertureOffset addr) = .reg .status := (congrArg targetAt ho).trans (targetAt_regOffset .status)
  obtain ⟨frameBad, toneValid, hread, hframeBad, htoneValid⟩ := rdata_hostRead_status_run (s := s.withInputs rest) hs
  refine ⟨_, step_read hin ha, ?_⟩
  rw [ht, hread]
  obtain ⟨hbusy, hdone, hbad, hover, htone, hlow, hhigh, -⟩ :=
    statusBitsStandInTheirPlaces { s.withInputs rest with frameBad := frameBad, toneValid := toneValid }
  have herr := (State.status_err_eq_zero_iff
    { s.withInputs rest with frameBad := frameBad, toneValid := toneValid }).2 (hinv.run r hs).err_eq
  exact ⟨hbusy.2 ⟨r, hs⟩, hdone.trans (hinv.run r hs).done_eq, hover, herr, hlow, hhigh,
    fun hclear hpush => hbad.trans (hframeBad hclear hpush), fun hanalyze => htone.trans (htoneValid hanalyze)⟩

/-! ## Reads of what the running word does not write (20_memory.md R71) -/

/-- The registers `ANALYZE` writes (30_encoding.md R82). -/
def resultRegs : List RegName := [.nspec, .sigLo, .sigHi, .dcLo, .dcHi, .toneLo, .toneHi, .nband, .ntone]

theorem writtenBy_analyze_reg_iff (S : Snapshot) (r : RegName) : writtenBy .analyze S (.reg r) = true ↔ r ∈ resultRegs :=
  List.contains_iff_mem

/-- The result registers stand at the offsets 0x60 to 0x80. -/
theorem regOffset_result_bounds : ∀ r ∈ resultRegs, 0x60 ≤ regOffset r ∧ regOffset r ≤ 0x80 := by decide

section
variable {S : Snapshot} {o : Nat}

/-- `CLEAR` writes the offsets of `LEN` and `NSAMP`. -/
theorem offset_of_writtenBy_clear (h : writtenBy .clear S (targetAt o) = true) : o = 0x14 ∨ o = 0x1C := by
  simp only [writtenBy, Bool.or_eq_true, beq_iff_eq] at h
  exact h.imp standsAt_of_targetAt standsAt_of_targetAt

/-- `FRAME_PUSH` writes the offset of `LEN` and those of four elements of `WORD`. -/
theorem offset_of_writtenBy_framePush (h : writtenBy .framePush S (targetAt o) = true) :
    o = 0x14 ∨ (0x40000 + 4 * S.len.toNat ≤ o ∧ o < 0x40000 + 4 * (S.len.toNat + 4) ∧ o < 0x80000) := by
  have hb := window_bases
  cases ht : targetAt o <;> rw [ht] at h
  case reg r =>
    cases beq_iff_eq.1 h
    exact .inl (standsAt_of_targetAt ht)
  case word n =>
    obtain ⟨hlo, hhi⟩ := of_decide_eq_true h
    have hat := standsAt_of_targetAt ht
    simp only [Target.standsAt, wordAddr] at hat
    omega
  all_goals cases h

/-- `REORDER` writes the offsets of the frame's elements of `WORD`. -/
theorem offset_of_writtenBy_reorder (h : writtenBy .reorder S (targetAt o) = true) :
    0x40000 ≤ o ∧ o < 0x40000 + 4 * S.len.toNat ∧ o < 0x80000 := by
  have hb := window_bases
  cases ht : targetAt o <;> rw [ht] at h
  case word n =>
    have hn := of_decide_eq_true h
    have hat := standsAt_of_targetAt ht
    simp only [Target.standsAt, wordAddr] at hat
    omega
  all_goals cases h

/-- `UNPACK` writes the offsets of `NSAMP` and `SAMPLE_WIDTH` and the windows of `IQI` and `IQQ`. -/
theorem offset_of_writtenBy_unpack (h : writtenBy .unpack S (targetAt o) = true) :
    o = 0x1C ∨ o = 0x20 ∨ (0x80000 ≤ o ∧ o < 0x100000) := by
  have hb := window_bases
  cases ht : targetAt o <;> have hat := standsAt_of_targetAt ht <;> rw [ht] at h
  case reg r =>
    simp only [writtenBy, Bool.or_eq_true, beq_iff_eq] at h
    rcases h with rfl | rfl
    · exact .inl hat
    · exact .inr (.inl hat)
  case iqi | iqq =>
    simp only [Target.standsAt, iqiAddr, iqqAddr] at hat
    omega
  all_goals cases h

/-- `ANALYZE` writes the offsets of the result registers and the windows of `SPEC` and `CLASS`. -/
theorem offset_of_writtenBy_analyze (h : writtenBy .analyze S (targetAt o) = true) :
    (0x60 ≤ o ∧ o ≤ 0x80) ∨ (0x100000 ≤ o ∧ o < 0x1C0000) := by
  have hb := window_bases
  cases ht : targetAt o <;> have hat := standsAt_of_targetAt ht <;> rw [ht] at h
  case reg r =>
    have hr := regOffset_result_bounds r ((writtenBy_analyze_reg_iff S r).1 h)
    rw [Target.standsAt] at hat
    exact .inl (hat ▸ hr)
  case specLo | specHi | cls =>
    simp only [Target.standsAt, specAddr, classAddr] at hat
    omega
  all_goals cases h

/-- What stands at an offset the word of a command does not write is nothing the command writes (30_encoding.md R82). -/
theorem writtenBy_of_unwrittenOffset {i : Instr} (h : UnwrittenOffset (encode i) S.len.toNat o) :
    writtenBy i S (targetAt o) = false := by
  obtain ⟨-, hclear, hpush, hreorder, hunpack, hanalyze⟩ := h
  refine Bool.eq_false_iff.2 fun hwritten => ?_
  cases i with
  | nop => cases hwritten
  | clear =>
    have hout := hclear rfl
    have hin := offset_of_writtenBy_clear hwritten
    omega
  | framePush =>
    have hout := hpush rfl
    have hin := offset_of_writtenBy_framePush hwritten
    omega
  | reorder =>
    have hout := hreorder rfl
    have hin := offset_of_writtenBy_reorder hwritten
    omega
  | unpack =>
    have hout := hunpack rfl
    have hin := offset_of_writtenBy_unpack hwritten
    omega
  | analyze =>
    have hout := hanalyze rfl
    have hin := offset_of_writtenBy_analyze hwritten
    omega

end

/-- A read of a target that is not `STATUS` and that the running command does not write returns the live value. -/
theorem hostRead_of_not_written {s : State} {t : Target} (hstatus : t ≠ .reg .status)
    (h : ∀ i S, s.runningCommand = some (i, S) → writtenBy i S t = false) :
    hostRead t s = s.returnData (s.readTarget t) := by
  unfold hostRead
  cases hrun : s.runningCommand with
  | none => rfl
  | some x =>
    obtain ⟨i, S⟩ := x
    simp [hstatus, h i S hrun]

/-- Of all targets only `STATUS` shows whether a command runs. -/
theorem State.readTarget_withSeq (s : State) (q : Seq) {t : Target} (h : t ≠ .reg .status) :
    State.readTarget { s with seq := q } t = s.readTarget t := by
  cases t with
  | reg r =>
    cases r with
    | status => exact absurd rfl h
    | _ => rfl
  | _ => rfl

/-- Settles O45: the target is not `STATUS` and is not written, so the read returns its value, which is the idle one. -/
theorem unwrittenStateReadsLiveWhileBusy : Obligations.UnwrittenStateReadsLiveWhileBusy := by
  intro s r addr rest hs hin ha hun
  have hstatus : targetAt (apertureOffset addr) ≠ .reg .status := fun ht => hun.1 (standsAt_of_targetAt ht)
  refine ⟨s.readTarget (targetAt (apertureOffset addr)), ?run, ?idle⟩
  case run =>
    rw [step_read hin ha, hostRead_of_not_written (s := s.withInputs rest) hstatus, State.readTarget_withInputs]
    · rfl
    · intro i S hrun
      obtain ⟨hword, rfl⟩ := word_of_runningCommand hs hrun
      exact writtenBy_of_unwrittenOffset (hword ▸ hun)
  case idle =>
    rw [step_read_idle (s := { s with seq := .idle }) rfl hin ha rfl, State.readTarget_withSeq s .idle hstatus]

/-! ## When the results are meaningful (70_reset_and_hazards.md R220) -/

/-- The results are meaningful when the last analysis ended with `OK` and none is in progress. -/
theorem resultsValid_iff (s : State) : resultsValid s = true ↔ s.lastAnalysis = some .ok ∧ analyzing s = false := by
  simp [resultsValid]

/-- `ANALYZE` completes and remembers its code. -/
theorem exec_analyze_remembers (s : State) :
    ∃ u, exec .analyze s = .next u ∧ u.seq = .idle ∧ u.done = true ∧ u.lastAnalysis = some u.err := by
  rw [exec]
  rcases execAnalyze_cases s with ⟨-, e⟩ | ⟨-, -, e⟩ | ⟨p, -, -, -, e⟩ | ⟨p, -, -, -, e⟩ <;> exact ⟨_, e, rfl, rfl, rfl⟩

/-- After the turn of an `ANALYZE` the results are meaningful exactly when `STATUS` reads `DONE` 1 and `ERR` 0. -/
theorem resultsValid_of_analyze_turn {s t : State} {r : Run} (h : step s = .next t)
    (hw : WordRuns (encode .analyze) s r) :
    resultsValid t = true ↔ t.status.getLsbD 1 = true ∧ t.status.extractLsb' 8 4 = 0#4 := by
  obtain ⟨u, hexec, hidle, hdone, hlast⟩ := exec_analyze_remembers s
  obtain ⟨rest, hstep⟩ := step_wordRuns hw hexec
  cases h.symm.trans hstep
  obtain ⟨-, hbit, -⟩ := statusBitsStandInTheirPlaces (u.withInputs rest)
  have hvalid : resultsValid (u.withInputs rest) = true ↔ u.err = .ok := by
    rw [resultsValid_iff, analyzing_idle (s := u.withInputs rest) hidle]
    simp [State.withInputs, hlast]
  rw [hvalid, State.status_err_eq_zero_iff, hbit]
  exact ⟨fun he => ⟨hdone, he⟩, fun he => he.2⟩

/-! ## Steps that keep the results -/

/-- Every next state an outcome gives keeps the results. -/
def LeavesResults (s : State) (o : Host.Outcome State Fault Refusal) : Prop := ∀ t, o = .next t → KeepsResults s t

theorem leavesResults_next {s t : State} (h : KeepsResults s t) : LeavesResults s (.next t) := by
  rintro _ ⟨⟩
  exact h

theorem keepsResults_refl (s : State) : KeepsResults s s := ⟨rfl, rfl, rfl, rfl, rfl, rfl, rfl, rfl, fun _ _ => rfl⟩

/-- New contents of the buffers keep the results when they keep every byte of `SPEC` and `CLASS`. -/
theorem keepsResults_withMem (s : State) {m : Memory} (h : ∀ x, 0x100000 ≤ x → m.readByte x = s.mem.readByte x) :
    KeepsResults s { s with mem := m } :=
  ⟨rfl, rfl, rfl, rfl, rfl, rfl, rfl, rfl, h⟩

/-- A change of `WORD` within its window keeps every byte of `SPEC` and `CLASS`. -/
theorem readByte_results_of_keepsOutside {m m' : Memory} {a b x : Nat} (h : KeepsOutside m m' (wordAddr a) (wordAddr b))
    (hb : b ≤ 65536) (hx : 0x100000 ≤ x) : m'.readByte x = m.readByte x := by
  refine h x (.inr ?_)
  have := window_bases
  unfold wordAddr
  omega

/-- A change of `WORD` within its window keeps the results. -/
theorem keepsResults_of_keepsOutside (s : State) {m : Memory} {a b : Nat}
    (h : KeepsOutside s.mem m (wordAddr a) (wordAddr b)) (hb : b ≤ 65536) : KeepsResults s { s with mem := m } :=
  keepsResults_withMem s fun _ hx => readByte_results_of_keepsOutside h hb hx

theorem execFramePush_leavesResults (s : State) : LeavesResults s (execFramePush s) := by
  rcases execFramePush_cases s with ⟨-, e⟩ | ⟨-, -, e⟩ | ⟨-, -, -, e⟩ | ⟨-, -, hcap, e⟩ <;> rw [e] <;>
    apply leavesResults_next
  case inr.inr.inr =>
    exact keepsResults_of_keepsOutside s (keepsOutside_writeWords s.mem _ s.operands.lineWords) hcap
  all_goals exact keepsResults_refl s

theorem execReorder_leavesResults {s : State} (hlen : s.operands.len.toNat ≤ Config.capacity) :
    LeavesResults s (execReorder s) := by
  rcases execReorder_cases s with ⟨-, e⟩ | ⟨-, -, e⟩ | ⟨-, -, -, e⟩ | ⟨-, hin, e⟩ <;> rw [e] <;>
    apply leavesResults_next
  case inr.inr.inr => exact keepsResults_of_keepsOutside s (keepsOutside_rotateWords s hin) hlen
  all_goals exact keepsResults_refl s

theorem execUnpack_leavesResults {s : State} (hlen : s.operands.len.toNat ≤ Config.capacity) :
    LeavesResults s (execUnpack s) := by
  have hcap : s.operands.len.toNat ≤ 65536 := hlen
  have hb := window_bases
  rcases execUnpack_cases s with ⟨-, e⟩ | ⟨-, -, e⟩ | ⟨-, -, e⟩ <;> rw [e] <;> apply leavesResults_next
  case inr.inr =>
    exact keepsResults_withMem s fun x hx =>
      s.readByte_unpackWords_outside (.inr (by unfold iqiAddr; omega)) (.inr (by unfold iqqAddr; omega))
  all_goals exact keepsResults_refl s

/-- Of the commands only `ANALYZE` writes the results, in a run that meets the invariant. -/
theorem exec_leavesResults {s : State} {r : Run} (h : Inv s) (hs : s.seq = .run r) {i : Instr} (hi : i ≠ .analyze) :
    LeavesResults s (exec i s) := by
  have hlen : s.operands.len.toNat ≤ Config.capacity := by rw [State.operands_run hs]; exact (h.run r hs).len_le
  cases i with
  | nop => exact leavesResults_next (keepsResults_refl s)
  | clear => exact leavesResults_next (keepsResults_refl s)
  | framePush => exact execFramePush_leavesResults s
  | reorder => exact execReorder_leavesResults hlen
  | unpack => exact execUnpack_leavesResults hlen
  | analyze => exact absurd rfl hi

/-- The results are kept, and an analysis in progress is not ended. -/
def KeepsMeaning (s t : State) : Prop := KeepsResults s t ∧ (analyzing s = true → analyzing t = true)

/-- What keeps the results and ends no analysis makes no meaningless result meaningful. -/
theorem KeepsMeaning.resultsValid {s t : State} (h : KeepsMeaning s t) (ht : resultsValid t = true) :
    resultsValid s = true := by
  obtain ⟨⟨-, -, -, -, -, -, -, hlast, -⟩, hanalyzing⟩ := h
  obtain ⟨hok, hnot⟩ := (resultsValid_iff t).1 ht
  refine (resultsValid_iff s).2 ⟨hlast.symm.trans hok, Bool.eq_false_iff.2 fun ha => ?_⟩
  exact nomatch (hanalyzing ha).symm.trans hnot

/-- A turn that runs no `ANALYZE` keeps the results, and there was no analysis to end. -/
theorem sequencerTurn_keepsMeaning {s t : State} (h : Inv s) (hno : ∀ r, s.seq = .run r → r.word ≠ encode .analyze)
    (hturn : sequencerTurn s = .next t) : KeepsMeaning s t := by
  cases hs : s.seq with
  | idle =>
    rw [sequencerTurn_idle hs] at hturn
    cases hturn
    exact ⟨keepsResults_refl s, id⟩
  | run r =>
    have hd : decode r.word ≠ .ok .analyze := mt (onlyItsEncodingDecodes _ _).1 (hno r hs)
    refine ⟨?_, fun ha => absurd ((analyzing_run hs).1 ha) hd⟩
    rw [sequencerTurn_run hs] at hturn
    cases hdec : decode r.word with
    | error e =>
      rw [runCommand_error hdec] at hturn
      cases hturn
      exact keepsResults_refl s
    | ok i =>
      rw [runCommand_ok hdec] at hturn
      exact exec_leavesResults h hs (fun hi => hd (hi ▸ hdec)) t hturn

/-- A write of `CMD` starts a run or drops the word; the command in progress goes on. -/
theorem keepsMeaning_issue (s : State) (c : Word) : KeepsMeaning s (s.issue c) := by
  cases hs : s.seq with
  | idle =>
    rw [State.issue_idle hs]
    exact ⟨keepsResults_refl s, fun ha => nomatch ha.symm.trans (analyzing_idle hs)⟩
  | run r =>
    rw [State.issue_run hs]
    exact ⟨keepsResults_refl s, fun ha => (analyzing_run (s.dropCommand_seq r)).2 ((analyzing_run hs).1 ha)⟩

theorem keepsMeaning_writeReg (s : State) (r : RegName) (v : Word) : KeepsMeaning s (s.writeReg r v) := by
  cases r with
  | cmd => exact keepsMeaning_issue s v
  | len =>
    rw [State.writeReg, State.writeLen]
    split <;> exact ⟨keepsResults_refl s, id⟩
  | _ => exact ⟨keepsResults_refl s, id⟩

/-- A write through the address map keeps the results: neither their registers nor `SPEC` and `CLASS` can be written
(20_memory.md R63). -/
theorem keepsMeaning_writeTarget (s : State) (o : Nat) (v : Word) : KeepsMeaning s (s.writeTarget (targetAt o) v) := by
  cases ht : targetAt o with
  | reg r => exact keepsMeaning_writeReg s r v
  | word n =>
    exact ⟨keepsResults_of_keepsOutside s (keepsOutside_writeWord s.mem n v) (word_lt_of_targetAt ht), id⟩
  | _ => exact ⟨keepsResults_refl s, id⟩

/-- Every step but a reset and the turn of an `ANALYZE` keeps the results and their meaning. -/
theorem step_keepsMeaning {s t : State} (h : Inv s) (hstep : step s = .next t)
    (hno : ¬ ∃ r, WordRuns (encode .analyze) s r) (hreset : ¬ ResetNext s) : KeepsMeaning s t := by
  have turn (rest : List Input) (hnext : TurnNext s) (hturn : sequencerTurn (s.withInputs rest) = .next t) :
      KeepsMeaning s t :=
    sequencerTurn_keepsMeaning (s := s.withInputs rest) (h.bookkeeping s.draws s.rdata rest)
      (fun r hs hword => hno ⟨r, hs, hword, hnext⟩) hturn
  rcases step_next_cases hstep with ⟨hin, hturn⟩ | ⟨rest, hin, hturn⟩ | ⟨rest, hin, -⟩ | ⟨rest, addr, -, -, -, rfl⟩ |
    ⟨rest, addr, -, v, -, -, -, rfl⟩
  · exact turn s.inputs (.inl hin) hturn
  · exact turn rest (.inr ⟨rest, hin⟩) hturn
  · exact absurd ⟨rest, hin⟩ hreset
  · obtain ⟨v, d, e⟩ := hostRead_frame (targetAt (apertureOffset addr)) { s with inputs := rest }
    rw [e]
    exact ⟨keepsResults_refl s, id⟩
  · exact keepsMeaning_writeTarget (s.withInputs rest) _ v

/-- A reset forgets how the last analysis completed. -/
theorem resultsValid_hardReset (s : State) : resultsValid s.hardReset = false := rfl

/-- Settles O60: the turn of an `ANALYZE`, a reset, and every other step. -/
theorem resultsAreMeaningfulOnlyAfterOkAnalysis : Obligations.ResultsAreMeaningfulOnlyAfterOkAnalysis := by
  intro s t h hstep
  refine ⟨fun ⟨r, hw⟩ => resultsValid_of_analyze_turn hstep hw, fun ⟨rest, hin⟩ => ?_, fun hno hreset => ?_⟩
  · cases hstep.symm.trans (step_input hin)
    exact resultsValid_hardReset _
  · have hkeep := step_keepsMeaning h hstep hno hreset
    exact ⟨hkeep.1, hkeep.resultsValid⟩

end Sys2Proof.Machine
end
